-- ==== Sys2Proof/Word.lean ====
section
/-! DEFINITION. The word types of the PMC clock-tree block (spec/00_scope.md R6, R8): every register
and every frequency is an unsigned 32-bit value, every operand of a command is an unsigned byte. -/

namespace Sys2Proof

/-- A register of the block or a frequency in hertz (R6: `XLEN` = 32, R8: all values unsigned). -/
abbrev Word := BitVec 32

/-- One of the fields `OP`, `A`, `B`, `C` of a command word (R61). -/
abbrev Byte := BitVec 8

end Sys2Proof
end

