-- ==== Sys2Proof/Syntax.lean ====
section
/-! DEFINITION. The 25 commands of the block, one constructor per row of spec/opcode_table.json
(spec/30_encoding.md R60 to R63). -/

namespace Sys2Proof

/-- A command. Operands are the bytes of the command word as they stand (R62). -/
inductive Instr where
  /-- `GETMCK`: master clock frequency (R87). -/
  | getmck
  /-- `GETCPU`: processor clock frequency (R88). -/
  | getcpu
  /-- `GETSLCK`: slow clock frequency (R91). -/
  | getslck
  /-- `GETMAINCK`: main clock frequency (R92). -/
  | getmainck
  /-- `GETPLLA`: PLLA output frequency (R93). -/
  | getplla
  /-- `INVAL`: forget the memoised master clock (R89). -/
  | inval
  /-- `SWMAIN`: master clock from the main clock (R100). -/
  | swmain
  /-- `SWPLL`: master clock from PLLA (R101). -/
  | swpll
  /-- `SWSLCK`: master clock from the slow clock (R102). -/
  | swslck
  /-- `SETPRES a`: prescaler encoding (R103). -/
  | setpres (a : Byte)
  /-- `SETMDIV a`: master-divider encoding (R104). -/
  | setmdiv (a : Byte)
  /-- `SETPLLADIV2 a`: halving flag (R105). -/
  | setplladiv2 (a : Byte)
  /-- `SELXSLCK`: slow clock from the external crystal (R106). -/
  | selxslck
  /-- `SELISLCK`: slow clock from the internal RC (R107). -/
  | selislck
  /-- `SETPLLA`: configure PLLA from `ARG[0]` and `ARG[1]` (R120). -/
  | setplla
  /-- `DISPLLA`: clear the PLLA multiplier (R121). -/
  | displla
  /-- `ENP id`: enable a peripheral clock (R131). -/
  | enp (a : Byte)
  /-- `DISP id`: disable a peripheral clock (R132). -/
  | disp (a : Byte)
  /-- `ISENP id`: is a peripheral clock enabled (R133). -/
  | isenp (a : Byte)
  /-- `GETPCLK id`: peripheral clock frequency (R134). -/
  | getpclk (a : Byte)
  /-- `DISALLP`: disable every peripheral clock (R135). -/
  | disallp
  /-- `CFGPCK n, src, pres`: reconfigure a programmable clock (R151). -/
  | cfgpck (a b c : Byte)
  /-- `ENPCK n`: enable a programmable clock (R152). -/
  | enpck (a : Byte)
  /-- `DISPCK n`: disable a programmable clock (R153). -/
  | dispck (a : Byte)
  /-- `GETPCK n`: programmable clock frequency (R154). -/
  | getpck (a : Byte)
deriving DecidableEq, Repr

end Sys2Proof
end

