-- ==== Sys2Proof/WellFormed.lean ====
section
/-! DEFINITION. Which terms of `Instr` are the reading of a legal command word (spec/30_encoding.md R61, R65).
Every operand is a whole byte of the word, so one check is left: the source code of `CFGPCK` is 3 bits wide. -/

namespace Sys2Proof

/-- R62, R65: bits [23:19] of a `CFGPCK` word are zero, that is `B` is below 8. No other field of a term can hold a
value its word does not admit. The operand checks of R70 are no part of this: a command that fails one is a legal word
and raises a fault when it is decoded. -/
def Instr.wellFormed : Instr → Bool
  | .cfgpck _ b _ => decide (b.toNat < 8)
  | .getmck | .getcpu | .getslck | .getmainck | .getplla | .inval => true
  | .swmain | .swpll | .swslck | .selxslck | .selislck => true
  | .setpres _ | .setmdiv _ | .setplladiv2 _ => true
  | .setplla | .displla => true
  | .enp _ | .disp _ | .isenp _ | .getpclk _ | .disallp => true
  | .enpck _ | .dispck _ | .getpck _ => true

/-- The check as a proposition. -/
abbrev Instr.WellFormed (i : Instr) : Prop := i.wellFormed = true

end Sys2Proof
end

