-- ==== Sys2Proof/Decode.lean ====
section
/-! DEFINITION. Decoding and encoding of command words (spec/30_encoding.md R60 to R65). A command is the one 32-bit
word the host writes to `CMD`; there is no byte stream and no second word. -/

namespace Sys2Proof

/-- Why a word is no command (R65). Each of them raises `Fault(ILLEGAL_COMMAND, w[7:0])` when the word is written to
`CMD`. -/
inductive DecodeError where
  /-- `OP` is none of the 25 opcodes. -/
  | unknownOpcode
  /-- A field the command does not use is nonzero, or bits [23:19] of a `CFGPCK` word are. -/
  | unusedFieldNonzero
deriving DecidableEq, Repr

/-- The `n` bits of `w` from bit `lo` upwards, R8's `w[lo+n-1:lo]`. -/
def bitField (w : Word) (lo n : Nat) : BitVec n := w.extractLsb' lo n

/-- The word of format `C` (R61). -/
def formatC (op a b c : Byte) : Word := c ++ b ++ a ++ op

/-- `i`, where the word has every bit from `used` upwards zero (R61: an unused field must be zero). -/
def noOther (w : Word) (used : Nat) (i : Instr) : Except DecodeError Instr :=
  if w >>> used = 0 then .ok i else .error .unusedFieldNonzero

/-- The command a word selects (R63, R65). -/
def decode (w : Word) : Except DecodeError Instr :=
  let a := bitField w 8 8
  let b := bitField w 16 8
  let c := bitField w 24 8
  match (bitField w 0 8).toNat with
  | 0x01 => noOther w 8 .getmck
  | 0x02 => noOther w 8 .getcpu
  | 0x03 => noOther w 8 .getslck
  | 0x04 => noOther w 8 .getmainck
  | 0x05 => noOther w 8 .getplla
  | 0x06 => noOther w 8 .inval
  | 0x10 => noOther w 8 .swmain
  | 0x11 => noOther w 8 .swpll
  | 0x12 => noOther w 8 .swslck
  | 0x13 => noOther w 16 (.setpres a)
  | 0x14 => noOther w 16 (.setmdiv a)
  | 0x15 => noOther w 16 (.setplladiv2 a)
  | 0x16 => noOther w 8 .selxslck
  | 0x17 => noOther w 8 .selislck
  | 0x20 => noOther w 8 .setplla
  | 0x21 => noOther w 8 .displla
  | 0x30 => noOther w 16 (.enp a)
  | 0x31 => noOther w 16 (.disp a)
  | 0x32 => noOther w 16 (.isenp a)
  | 0x33 => noOther w 16 (.getpclk a)
  | 0x34 => noOther w 8 .disallp
  | 0x40 => if bitField w 19 5 = 0 then .ok (.cfgpck a b c) else .error .unusedFieldNonzero
  | 0x41 => noOther w 16 (.enpck a)
  | 0x42 => noOther w 16 (.dispck a)
  | 0x43 => noOther w 16 (.getpck a)
  | _ => .error .unknownOpcode

/-- The opcode of a command (R63). -/
def opcode : Instr → Byte
  | .getmck => 0x01
  | .getcpu => 0x02
  | .getslck => 0x03
  | .getmainck => 0x04
  | .getplla => 0x05
  | .inval => 0x06
  | .swmain => 0x10
  | .swpll => 0x11
  | .swslck => 0x12
  | .setpres _ => 0x13
  | .setmdiv _ => 0x14
  | .setplladiv2 _ => 0x15
  | .selxslck => 0x16
  | .selislck => 0x17
  | .setplla => 0x20
  | .displla => 0x21
  | .enp _ => 0x30
  | .disp _ => 0x31
  | .isenp _ => 0x32
  | .getpclk _ => 0x33
  | .disallp => 0x34
  | .cfgpck _ _ _ => 0x40
  | .enpck _ => 0x41
  | .dispck _ => 0x42
  | .getpck _ => 0x43

/-- The field `A` of a command's word: its first operand, or zero (R61, R63). -/
def operandA : Instr → Byte
  | .setpres a | .setmdiv a | .setplladiv2 a => a
  | .enp a | .disp a | .isenp a | .getpclk a => a
  | .cfgpck a _ _ | .enpck a | .dispck a | .getpck a => a
  | .getmck | .getcpu | .getslck | .getmainck | .getplla | .inval => 0
  | .swmain | .swpll | .swslck | .selxslck | .selislck => 0
  | .setplla | .displla | .disallp => 0

/-- The word of a command (R61, R63). -/
def encode (i : Instr) : Word :=
  match i with
  | .cfgpck a b c => formatC (opcode i) a b c
  | _ => formatC (opcode i) (operandA i) 0 0

/-- The mnemonic of a command, as spec/opcode_table.json spells it (R63). -/
def mnemonic : Instr → String
  | .getmck => "GETMCK"
  | .getcpu => "GETCPU"
  | .getslck => "GETSLCK"
  | .getmainck => "GETMAINCK"
  | .getplla => "GETPLLA"
  | .inval => "INVAL"
  | .swmain => "SWMAIN"
  | .swpll => "SWPLL"
  | .swslck => "SWSLCK"
  | .setpres _ => "SETPRES"
  | .setmdiv _ => "SETMDIV"
  | .setplladiv2 _ => "SETPLLADIV2"
  | .selxslck => "SELXSLCK"
  | .selislck => "SELISLCK"
  | .setplla => "SETPLLA"
  | .displla => "DISPLLA"
  | .enp _ => "ENP"
  | .disp _ => "DISP"
  | .isenp _ => "ISENP"
  | .getpclk _ => "GETPCLK"
  | .disallp => "DISALLP"
  | .cfgpck _ _ _ => "CFGPCK"
  | .enpck _ => "ENPCK"
  | .dispck _ => "DISPCK"
  | .getpck _ => "GETPCK"

/-- One row of spec/opcode_table.json: a word `w` selects it when `w & mask = match` (R63). -/
structure OpcodeRow where
  mnemonic : String
  pattern : Word
  mask : Word
deriving DecidableEq, Repr

/-- The match and mask of spec/opcode_table.json, row by row (R63). The decoder does not read it: that the two agree is
a statement. -/
def opcodeTable : List OpcodeRow :=
  [⟨"GETMCK", 0x00000001, 0xFFFFFFFF⟩, ⟨"GETCPU", 0x00000002, 0xFFFFFFFF⟩,
   ⟨"GETSLCK", 0x00000003, 0xFFFFFFFF⟩, ⟨"GETMAINCK", 0x00000004, 0xFFFFFFFF⟩,
   ⟨"GETPLLA", 0x00000005, 0xFFFFFFFF⟩, ⟨"INVAL", 0x00000006, 0xFFFFFFFF⟩,
   ⟨"SWMAIN", 0x00000010, 0xFFFFFFFF⟩, ⟨"SWPLL", 0x00000011, 0xFFFFFFFF⟩,
   ⟨"SWSLCK", 0x00000012, 0xFFFFFFFF⟩, ⟨"SETPRES", 0x00000013, 0xFFFF00FF⟩,
   ⟨"SETMDIV", 0x00000014, 0xFFFF00FF⟩, ⟨"SETPLLADIV2", 0x00000015, 0xFFFF00FF⟩,
   ⟨"SELXSLCK", 0x00000016, 0xFFFFFFFF⟩, ⟨"SELISLCK", 0x00000017, 0xFFFFFFFF⟩,
   ⟨"SETPLLA", 0x00000020, 0xFFFFFFFF⟩, ⟨"DISPLLA", 0x00000021, 0xFFFFFFFF⟩,
   ⟨"ENP", 0x00000030, 0xFFFF00FF⟩, ⟨"DISP", 0x00000031, 0xFFFF00FF⟩,
   ⟨"ISENP", 0x00000032, 0xFFFF00FF⟩, ⟨"GETPCLK", 0x00000033, 0xFFFF00FF⟩,
   ⟨"DISALLP", 0x00000034, 0xFFFFFFFF⟩, ⟨"CFGPCK", 0x00000040, 0x00F800FF⟩,
   ⟨"ENPCK", 0x00000041, 0xFFFF00FF⟩, ⟨"DISPCK", 0x00000042, 0xFFFF00FF⟩,
   ⟨"GETPCK", 0x00000043, 0xFFFF00FF⟩]

/-- The command read from an instruction whose bits are `w` as spec/opcode_table.json numbers them. A command is one
32-bit word, so there is none of more bits than that. -/
def decodeTableWord (nbits w : Nat) : Option Instr :=
  if nbits ≤ 32 then (decode (BitVec.ofNat 32 (w % 2 ^ nbits))).toOption else none

end Sys2Proof
end

