-- ==== Sys2Proof/Config.lean ====
section
/-! DEFINITION. What an implementation of the block fixes: the parameters of spec/00_scope.md R6. The spec
gives none of them a value, so the machine's own are an opaque constant. -/

namespace Sys2Proof

/-- The implementation parameters of R6. `XLEN` = 32 and `N_PCK` = 3 are fixed and stand in the types. -/
structure Params where
  /-- `F_SLOW_RC`, the internal slow RC oscillator, in hertz. -/
  fSlowRc : Word
  /-- `F_SLOW_XTAL`, the external slow crystal, in hertz. -/
  fSlowXtal : Word
  /-- `F_MAIN_RC`, the internal main RC oscillator, in hertz. -/
  fMainRc : Word
  /-- `F_MAIN_XTAL`, the external main oscillator, in hertz. -/
  fMainXtal : Word
  /-- `N_PERIPH` less 3: the bounds `3 <= N_PERIPH <= 128` of R6 hold of every value. -/
  extraPeriph : Fin 126
  /-- `PERIPH_DIV`: the divisor of peripheral `id` is entry `id`. An id that the list does not reach has
  divisor 0, R6's "no fixed relationship", so every table of R6 is such a list. -/
  periphDiv : List Word
  /-- `SETTLE_ITER`, the number of `idle` steps after a slow-clock oscillator switch. -/
  settleIter : Nat
deriving DecidableEq, Repr, Inhabited

/-- `N_PERIPH` (R6): one more than the largest valid peripheral ID. -/
def Params.nPeriph (p : Params) : Nat := p.extraPeriph.val + 3

/-- `PERIPH_DIV[id]` (R6). -/
def Params.divisor (p : Params) (id : Nat) : Word := p.periphDiv.getD id 0

/-- The parameters of the machine at hand (R6 gives no value, D28 leaves all of them open). Free: it has no
body, so no proof can rest on a value of it (assumption 2). -/
opaque Config.params : Params

end Sys2Proof
end

