-- ==== Sys2Proof/Machine/State.lean ====
section
/-! DEFINITION. The state of the block (spec/10_state.md R10 to R31), the agents' inputs that a step reads, the reasons a
step can stop, and the state after reset. Plain data throughout. -/

namespace Sys2Proof.Machine

/-- The per-peripheral store `PERIPH_CFG` (R21): pairs of an id and its word in one canonical form, ids strictly rising
and no word zero. An id that is not listed reads as 0, its reset value (R31). -/
abbrev PeriphStore := List (Nat × Word)

/-- The environment's steps (R27). -/
inductive EnvStep where
  /-- `EnvMckReady`: the master-clock switch has completed. -/
  | mckReady
  /-- `EnvLock`: the PLL has locked. -/
  | lock
  /-- `EnvPckUp(n)`: programmable clock `n` has become ready. -/
  | pckUp (n : Fin 3)
  /-- `EnvPckDown(n)`: programmable clock `n` has ceased to be ready. -/
  | pckDown (n : Fin 3)
deriving DecidableEq, Repr

/-- Who moves next. R7 and R53: every run is one total order of the agents' atomic steps, and R32 leaves the choice of
when the environment moves open; the list of turns in the state makes that choice (assumption 3). -/
inductive Turn where
  /-- The engine, or the host while no command runs, makes its next atomic step if it has one. -/
  | go
  /-- The environment makes this step if its guard holds. -/
  | env (e : EnvStep)
  /-- Reset (R190). -/
  | reset
  /-- The step of the model ends here, between two atomic steps of the block. -/
  | hold
deriving DecidableEq, Repr

/-- One access of the host at its port (R4, R44 to R46): a byte offset, a width in bytes and, for a write, a value. -/
inductive HostAccess where
  | read (off width : Nat)
  | write (off width : Nat) (v : Word)
deriving DecidableEq, Repr

/-- The sequencer temporaries (R12). A command starts with fresh ones, all zero. -/
structure Temps where
  /-- The 32-bit word `t`. -/
  t : Word := 0
  /-- The flag `was_slow`. -/
  wasSlow : Bool := false
  /-- The loop index `i` of `DISALLP`. -/
  i : Nat := 0
  /-- The settle counter `n`. -/
  n : Nat := 0
deriving DecidableEq, Repr

/-- The sequencer state `SEQ` (R12). -/
inductive Seq where
  /-- No command in progress. -/
  | idle
  /-- `RUN(w, k, t)`: command word, index of the next micro-operation, temporaries. -/
  | run (w : Word) (k : Nat) (t : Temps)
  /-- Entered by a fault, left only by reset. -/
  | faulted
deriving DecidableEq, Repr

/-- The registers of the map (R41). -/
inductive Reg where
  | cmd | arg0 | arg1 | result | fsr | mckcache | sr | reserved
  | mckr | pllar | cpr | oscr | pcr | pckenr
  | pck (n : Fin 3)
deriving DecidableEq, Repr

/-- The causes of a fault (R171). The block's faults are states of the block (`SEQ` = FAULTED with `FSR` telling the
cause), never an outcome that stops the model. -/
inductive Cause where
  | invalidPeripheralId
  | invalidDividerEncoding
  | illegalCommand
  | invalidPckIndex
deriving DecidableEq, Repr

/-- The whole state (R10), the parameters (R6) and what the other agents will do. -/
structure State where
  /-- `CMD`, the last command word the host wrote (R11). -/
  cmd : Word
  /-- `ARG[0]` (R11). -/
  arg0 : Word
  /-- `ARG[1]` (R11). -/
  arg1 : Word
  /-- `RESULT` (R11). -/
  result : Word
  /-- `FSR`, the fault status register (R30). -/
  fsr : Word
  /-- `MCKCACHE`, the memoised master-clock frequency, 0 for unknown (R29). -/
  mckcache : Word
  /-- `SR`, the ready and locked bits (R24). -/
  sr : Word
  /-- `MCKR`, the master clock register (R13). -/
  mckr : Word
  /-- `PLLAR`, the PLLA configuration (R18). -/
  pllar : Word
  /-- `CPR`, the PLL charge-pump register (R19). -/
  cpr : Word
  /-- `OSCR`, the oscillator selects (R22). -/
  oscr : Word
  /-- `PCR_SEL`, the selector latch behind the `PCR` window (R20). -/
  pcrSel : BitVec 7
  /-- `PERIPH_CFG`, the per-peripheral configuration words (R21). -/
  periph : PeriphStore
  /-- `PCKENR`, the programmable-clock enables (R23). -/
  pckenr : Word
  /-- `PCK[0]`, `PCK[1]`, `PCK[2]`, the programmable-clock configurations (R23). -/
  pck : Vector Word 3
  /-- `SEQ`, the sequencer state (R12). -/
  seq : Seq
  /-- The parameters of R6. No step changes them (R32); they stand here so that a statement and a test
  can be about any of them. -/
  params : Params
  /-- The model's own: the accesses the one host has still to make, in the order it issues them (R7, R50, R53). -/
  script : List HostAccess
  /-- The model's own: which agent moves next (R32, R53; assumption 3). -/
  turns : List Turn
  /-- The model's own: the value the host's last read returned (R44). -/
  reply : Option Word
deriving DecidableEq, Repr

/-- Why the model stops with a fault. The block itself never stops: its own faults are states (R173, R175) and a hang is
a state that stays as it is (R177). -/
inductive Fault where
  /-- Raised by the step of a machine whose `SEQ` runs a word that selects no command. R64 starts no such word, so
  no run reaches it. Safe: the model stops where the spec has no state. -/
  | sequencerLost
deriving DecidableEq, Repr

/-- Why the model gives an access or a command no meaning. -/
inductive Refusal where
  /-- The command has no meaning in this model. Raised by nothing: every command has one. Safe. -/
  | notModelled (mnemonic : String)
  /-- A host access of a width other than 4 bytes (R46, U5). Raised by the host port. Safe. -/
  | accessWidth
  /-- A host access at an offset that is no multiple of 4 (R46, U5). Raised by the host port. Safe. -/
  | accessMisaligned
  /-- A host access at offset 0x44 or above, which is no access to this block (R42, U6). Raised by the host port.
  Safe. -/
  | accessOutside
deriving DecidableEq, Repr

/-- What a step of the model answers. -/
abbrev Result := Host.Outcome State Fault Refusal

/-- The state after reset (R31, R190), with the machine's parameters, no host access issued and no turn of another
agent. -/
def State.reset : State where
  cmd := 0
  arg0 := 0
  arg1 := 0
  result := 0
  fsr := 0
  mckcache := 0
  sr := 0x00000008
  mckr := 0
  pllar := 0
  cpr := 0
  oscr := 0
  pcrSel := 0
  periph := []
  pckenr := 0
  pck := Vector.replicate 3 0
  seq := .idle
  params := Config.params
  script := []
  turns := []
  reply := none

/-- `s` with `cmd` replaced. -/
def State.setCmd (s : State) (v : Word) : State := { s with cmd := v }

/-- `s` with `arg0` replaced. -/
def State.setArg0 (s : State) (v : Word) : State := { s with arg0 := v }

/-- `s` with `arg1` replaced. -/
def State.setArg1 (s : State) (v : Word) : State := { s with arg1 := v }

/-- `s` with `result` replaced. -/
def State.setResult (s : State) (v : Word) : State := { s with result := v }

/-- `s` with `fsr` replaced. -/
def State.setFsr (s : State) (v : Word) : State := { s with fsr := v }

/-- `s` with `mckcache` replaced. -/
def State.setMckcache (s : State) (v : Word) : State := { s with mckcache := v }

/-- `s` with `sr` replaced. -/
def State.setSr (s : State) (v : Word) : State := { s with sr := v }

/-- `s` with `mckr` replaced. -/
def State.setMckr (s : State) (v : Word) : State := { s with mckr := v }

/-- `s` with `pllar` replaced. -/
def State.setPllar (s : State) (v : Word) : State := { s with pllar := v }

/-- `s` with `cpr` replaced. -/
def State.setCpr (s : State) (v : Word) : State := { s with cpr := v }

/-- `s` with `oscr` replaced. -/
def State.setOscr (s : State) (v : Word) : State := { s with oscr := v }

/-- `s` with `pcrSel` replaced. -/
def State.setPcrSel (s : State) (v : BitVec 7) : State := { s with pcrSel := v }

/-- `s` with `periph` replaced. -/
def State.setPeriph (s : State) (v : PeriphStore) : State := { s with periph := v }

/-- `s` with `pckenr` replaced. -/
def State.setPckenr (s : State) (v : Word) : State := { s with pckenr := v }

/-- `s` with `seq` replaced. -/
def State.setSeq (s : State) (v : Seq) : State := { s with seq := v }

/-- `s` with `script` replaced. -/
def State.setScript (s : State) (v : List HostAccess) : State := { s with script := v }

/-- `s` with `turns` replaced. -/
def State.setTurns (s : State) (v : List Turn) : State := { s with turns := v }

/-- `s` with `reply` replaced. -/
def State.setReply (s : State) (v : Option Word) : State := { s with reply := v }

/-- `s` with `PCK[n]` replaced. -/
def State.setPck (s : State) (n : Fin 3) (v : Word) : State := { s with pck := s.pck.set n.val v n.isLt }

/-- The sequencer's temporaries, fresh ones while no command runs (R12, R64). -/
def State.temps (s : State) : Temps :=
  match s.seq with
  | .run _ _ t => t
  | .idle | .faulted => {}

/-- `s` with the temporaries of the command in progress replaced. -/
def State.setTemps (s : State) (t : Temps) : State :=
  match s.seq with
  | .run w k _ => s.setSeq (.run w k t)
  | .idle | .faulted => s

/-- `s` with the index of the next micro-operation replaced (R12). -/
def State.setIndex (s : State) (k : Nat) : State :=
  match s.seq with
  | .run w _ t => s.setSeq (.run w k t)
  | .idle | .faulted => s

end Sys2Proof.Machine
end

