-- ==== Sys2Proof/Machine/Operands.lean ====
section
/-! DEFINITION. The fields of the registers and the operands of the commands (spec/10_state.md R13 to R23,
spec/30_encoding.md R62, R70). -/

namespace Sys2Proof.Machine

/-- Bit `i` of `w`, R8's `w[i]`. -/
def bitSet (w : Word) (i : Nat) : Bool := w.getLsbD i

/-- `w` with the `n` bits from `lo` upwards replaced by `v`, the other bits as they were (R8: `NAME.FIELD <- v`). -/
def insertField (w : Word) (lo : Nat) {n : Nat} (v : BitVec n) : Word :=
  (w &&& ~~~((BitVec.allOnes n).setWidth 32 <<< lo)) ||| (v.setWidth 32 <<< lo)

/-! ## MCKR (R13 to R17) -/

/-- `MCKR.CSS`, the source-select field (R14). -/
def mckrCss (w : Word) : BitVec 2 := bitField w 0 2

/-- `MCKR.PRES`, the prescaler field (R15). -/
def mckrPres (w : Word) : BitVec 3 := bitField w 4 3

/-- `MCKR.MDIV`, the master-divider field (R16). -/
def mckrMdiv (w : Word) : BitVec 2 := bitField w 8 2

/-- `MCKR.PLLADIV2`, the halving flag (R17). -/
def mckrPlladiv2 (w : Word) : BitVec 1 := bitField w 12 1

/-- `w` with `CSS` replaced. -/
def mckrWithCss (w : Word) (v : BitVec 2) : Word := insertField w 0 v

/-- `w` with `PRES` replaced. -/
def mckrWithPres (w : Word) (v : BitVec 3) : Word := insertField w 4 v

/-- `w` with `MDIV` replaced. -/
def mckrWithMdiv (w : Word) (v : BitVec 2) : Word := insertField w 8 v

/-- `w` with `PLLADIV2` replaced. -/
def mckrWithPlladiv2 (w : Word) (v : BitVec 1) : Word := insertField w 12 v

/-! ## PLLAR (R18), OSCR (R22), PCK[n] (R23) -/

/-- `PLLAR.DIVA`, the PLL divider (R18). -/
def pllarDiva (w : Word) : BitVec 8 := bitField w 0 8

/-- `PLLAR.MULA`, the PLL multiplier (R18). -/
def pllarMula (w : Word) : BitVec 7 := bitField w 18 7

/-- `w` with `MULA` replaced. -/
def pllarWithMula (w : Word) (v : BitVec 7) : Word := insertField w 18 v

/-- `OSCR.SLCKSEL`, the slow-clock oscillator select (R22). -/
def oscrSlcksel (w : Word) : BitVec 1 := bitField w 0 1

/-- `OSCR.MAINSEL`, the main-clock oscillator select (R22). -/
def oscrMainsel (w : Word) : BitVec 1 := bitField w 1 1

/-- `w` with `SLCKSEL` replaced. -/
def oscrWithSlcksel (w : Word) (v : BitVec 1) : Word := insertField w 0 v

/-- `PCK[n].CSS`, the source of a programmable clock (R23). -/
def pckCss (w : Word) : BitVec 3 := bitField w 0 3

/-- `PCK[n].PRES`, the prescaler of a programmable clock (R23). -/
def pckPres (w : Word) : BitVec 8 := bitField w 4 8

/-- The word `CFGPCK` writes (R151): source and prescaler, every other bit 0. -/
def pckWord (src : BitVec 3) (pres : Byte) : Word := src.setWidth 32 ||| (pres.setWidth 32 <<< 4)

/-! ## The PCR window (R20, R21) -/

/-- `CFG_MASK` (R20): the bits of the window other than `PID` and `CMD`. -/
def cfgMask : Word := 0xFFFFEF80

/-- `PCR.PID` (R20). -/
def pcrPid (w : Word) : BitVec 7 := bitField w 0 7

/-- `PCR.CMD`, the commit bit (R20). -/
def pcrCmd (w : Word) : Bool := bitSet w 12

/-- `PCR.EN`, the gate bit (R20). -/
def pcrEn (w : Word) : Bool := bitSet w 28

/-- `PCR.CMD` as a mask. -/
def pcrCmdBit : Word := 0x00001000

/-- `PCR.EN` as a mask. -/
def pcrEnBit : Word := 0x10000000

/-- R130: the valid peripheral IDs. -/
def validId (p : Params) (id : Nat) : Bool := decide (2 ≤ id) && decide (id < p.nPeriph)

/-! ## Operands of the commands -/

/-- The unit index of a programmable-clock command (R62). The operand check of R70 has passed, so the operand is 0, 1
or 2. -/
def pckUnit (a : Byte) : Fin 3 := if a = 0 then 0 else if a = 1 then 1 else 2

/-- The operand checks of R70: the cause of the fault where a command's check fails. -/
def operandFault (p : Params) (i : Instr) : Option Cause :=
  match i with
  | .enp a | .disp a | .isenp a | .getpclk a =>
      if validId p a.toNat then none else some .invalidPeripheralId
  | .setpres a => if a.toNat ≤ 6 then none else some .invalidDividerEncoding
  | .setmdiv a => if a.toNat ≤ 3 then none else some .invalidDividerEncoding
  | .setplladiv2 a => if a.toNat ≤ 1 then none else some .invalidDividerEncoding
  | .cfgpck a _ _ | .enpck a | .dispck a | .getpck a =>
      if a.toNat ≤ 2 then none else some .invalidPckIndex
  | .getmck | .getcpu | .getslck | .getmainck | .getplla | .inval => none
  | .swmain | .swpll | .swslck | .selxslck | .selislck => none
  | .setplla | .displla | .disallp => none

end Sys2Proof.Machine
end

