-- ==== Sys2Proof/Machine/Derive.lean ====
section
/-! DEFINITION. The frequency-derivation engine: pure functions of the state (spec/40_frequency_derivation.md R80 to R86,
R94, spec/44_programmable_clocks.md R150). Products are taken modulo 2^32, shifts are logical, divisions truncate. -/

namespace Sys2Proof.Machine

/-- R80: the slow-clock frequency. -/
def fSlow (s : State) : Word := if oscrSlcksel s.oscr = 1 then s.params.fSlowXtal else s.params.fSlowRc

/-- R81: the main-clock frequency. -/
def fMain (s : State) : Word := if oscrMainsel s.oscr = 1 then s.params.fMainXtal else s.params.fMainRc

/-- R82: the PLL's multiply and divide stage with its optional halving, from an input frequency. The multiplier is not
tested (C4); a divider of 0 gives 0 (C8). -/
def pllDerive (pllar : Word) (half : BitVec 1) (f : Word) : Word :=
  if pllarDiva pllar = 0 then 0
  else
    let g := (f * ((pllarMula pllar).setWidth 32 + 1)) / (pllarDiva pllar).setWidth 32
    if half = 1 then g >>> 1 else g

/-- R82: the PLLA output frequency. Its input is the main clock, whatever drives the master clock. -/
def fPlla (s : State) : Word := pllDerive s.pllar (mckrPlladiv2 s.mckr) (fMain s)

/-- R83: the source frequency of a source-select code; 0 for an unrecognised one (D17). -/
def fSrc (c : Nat) (s : State) : Word :=
  if c = 0 then fSlow s else if c = 1 then fMain s else if c = 2 then fPlla s else 0

/-- R84: the prescaler stage; the eighth encoding passes the frequency through (C2). -/
def presApply (e : BitVec 3) (f : Word) : Word := if e.toNat ≤ 6 then f >>> e.toNat else f

/-- R85: the master-divider stage. -/
def mdivApply (e : BitVec 2) (f : Word) : Word :=
  if e = 0 then f else if e = 1 then f >>> 1 else if e = 2 then f >>> 2 else f / 3

/-- R85: the inverse factor of the master-divider stage. -/
def mdivFactor (e : BitVec 2) : Word := if e = 0 then 1 else if e = 1 then 2 else if e = 2 then 4 else 3

/-- R86: the master clock from its source through the prescaler and the master divider. -/
def mckCompute (s : State) : Word :=
  mdivApply (mckrMdiv s.mckr) (presApply (mckrPres s.mckr) (fSrc (mckrCss s.mckr).toNat s))

/-- R150: the frequency of programmable clock `n`. -/
def fPck (n : Fin 3) (s : State) : Word :=
  fSrc (pckCss s.pck[n]).toNat s / ((pckPres s.pck[n]).setWidth 32 + 1)

end Sys2Proof.Machine
end

