-- ==== Sys2Proof/Machine/Flags.lean ====
section
/-! DEFINITION. The status bits: what `SR` and `FSR` hold, what lowers and raises each bit (spec/10_state.md R24 to R27,
R30). No arithmetic sets a flag (R24, R94). -/

namespace Sys2Proof.Machine

/-! ## SR (R24) -/

/-- The place of `LOCKA` in `SR`. -/
def lockaBit : Nat := 1

/-- The place of `MCKRDY` in `SR`. -/
def mckrdyBit : Nat := 3

/-- The place of `PCKRDY[n]` in `SR`. -/
def pckrdyBit (n : Fin 3) : Nat := 8 + n.val

/-- The named bits of `SR`; every other bit reads 0 (R24). -/
def srMask : Word := 0x0000070A

/-- `w` with bit `i` 1. -/
def raiseBit (w : Word) (i : Nat) : Word := w ||| (1#32 <<< i)

/-- `w` with bit `i` 0. -/
def lowerBit (w : Word) (i : Nat) : Word := w &&& ~~~(1#32 <<< i)

/-- `SR.LOCKA`. -/
def State.locka (s : State) : Bool := bitSet s.sr lockaBit

/-- `SR.MCKRDY`. -/
def State.mckrdy (s : State) : Bool := bitSet s.sr mckrdyBit

/-- `SR.PCKRDY[n]`. -/
def State.pckrdy (s : State) (n : Fin 3) : Bool := bitSet s.sr (pckrdyBit n)

/-- `PCKENR[n]`, the enable of programmable clock `n` (R23). -/
def State.pcken (s : State) (n : Fin 3) : Bool := bitSet s.pckenr n.val

/-- R27: one step of the environment. Where its guard does not hold the step is not enabled and nothing happens. -/
def envStep (e : EnvStep) (s : State) : State :=
  match e with
  | .mckReady => if s.mckrdy then s else s.setSr (raiseBit s.sr mckrdyBit)
  | .lock => if s.locka then s else s.setSr (raiseBit s.sr lockaBit)
  | .pckUp n => if !s.pckrdy n && s.pcken n then s.setSr (raiseBit s.sr (pckrdyBit n)) else s
  | .pckDown n => if s.pckrdy n && !s.pcken n then s.setSr (lowerBit s.sr (pckrdyBit n)) else s

/-! ## FSR (R30) -/

/-- The code of a cause (R171). -/
def causeCode : Cause → BitVec 4
  | .invalidPeripheralId => 1
  | .invalidDividerEncoding => 2
  | .illegalCommand => 3
  | .invalidPckIndex => 4

/-- `FSR` after a fault (R173): `FAULT`, `CAUSE` and `INFO` written, the other bits as they were. -/
def faultStatus (fsr : Word) (c : Cause) (info : Byte) : Word :=
  insertField (insertField (insertField fsr 0 1#1) 8 (causeCode c)) 16 info

/-- `FSR.FAULT` (R30). -/
def State.fsrFault (s : State) : Bool := bitSet s.fsr 0

end Sys2Proof.Machine
end

