-- ==== Sys2Proof/Machine/Store.lean ====
section
/-! DEFINITION. The per-peripheral store `PERIPH_CFG` (spec/10_state.md R21) as a list of ids and words in one canonical
form. -/

namespace Sys2Proof.Machine

/-- The word of peripheral `id`; 0 where none is listed (R31). -/
def storeRead (id : Nat) : PeriphStore → Word
  | [] => 0
  | (j, v) :: rest => if j = id then v else storeRead id rest

/-- The store with no word listed for `id`. -/
def storeErase (id : Nat) : PeriphStore → PeriphStore
  | [] => []
  | (j, v) :: rest => if j = id then storeErase id rest else (j, v) :: storeErase id rest

/-- The store with `v` listed for `id` before every larger id. -/
def storeInsert (id : Nat) (v : Word) : PeriphStore → PeriphStore
  | [] => [(id, v)]
  | (j, u) :: rest => if id < j then (id, v) :: (j, u) :: rest else (j, u) :: storeInsert id v rest

/-- The store with `v` as the word of `id`: the reset value 0 is not listed. -/
def storeWrite (id : Nat) (v : Word) (m : PeriphStore) : PeriphStore :=
  if v = 0 then storeErase id m else storeInsert id v (storeErase id m)

/-- The canonical form: ids strictly rising, no word equal to what an unlisted id reads as. -/
abbrev PeriphStore.wf (m : PeriphStore) : Prop :=
  m.Pairwise (fun x y => x.1 < y.1) ∧ ∀ e ∈ m, e.2 ≠ 0

end Sys2Proof.Machine
end

