-- ==== Sys2Proof/Machine/Ops.lean ====
section
/-! DEFINITION. The shared operations: register reads and writes with their side effects (spec/20_memory.md R40 to R51),
taking a fault (spec/60_exceptions.md R173), reset (spec/70_reset_and_hazards.md R190), and the engine that carries out a
command's micro-operations (spec/30_encoding.md R64 to R70). -/

namespace Sys2Proof.Machine

/-! ## The register map (R41) -/

/-- The register at a byte offset of the block (R41); none outside the map. -/
def regAt (off : Nat) : Option Reg :=
  match off with
  | 0x00 => some .cmd
  | 0x04 => some .arg0
  | 0x08 => some .arg1
  | 0x0C => some .result
  | 0x10 => some .fsr
  | 0x14 => some .mckcache
  | 0x18 => some .sr
  | 0x1C => some .reserved
  | 0x20 => some .mckr
  | 0x24 => some .pllar
  | 0x28 => some .cpr
  | 0x2C => some .oscr
  | 0x30 => some .pcr
  | 0x34 => some .pckenr
  | 0x38 => some (.pck 0)
  | 0x3C => some (.pck 1)
  | 0x40 => some (.pck 2)
  | _ => none

/-- A read of `PCR` (R48): the selector, with the selected peripheral's word where the selector is a valid ID. -/
def pcrRead (s : State) : Word :=
  if validId s.params s.pcrSel.toNat then s.pcrSel.setWidth 32 ||| storeRead s.pcrSel.toNat s.periph
  else s.pcrSel.setWidth 32

/-- A write of `PCR` (R48): latch the selector; commit the word where `CMD` is 1 and the ID is valid. -/
def pcrWrite (v : Word) (s : State) : State :=
  if pcrCmd v && validId s.params (pcrPid v).toNat then
    (s.setPcrSel (pcrPid v)).setPeriph (storeWrite (pcrPid v).toNat (v &&& cfgMask) s.periph)
  else s.setPcrSel (pcrPid v)

/-- The value a read of a register returns (R41, R44). A read changes nothing. -/
def readReg (r : Reg) (s : State) : Word :=
  match r with
  | .cmd => s.cmd
  | .arg0 => s.arg0
  | .arg1 => s.arg1
  | .result => s.result
  | .fsr => s.fsr
  | .mckcache => s.mckcache
  | .sr => s.sr
  | .reserved => 0
  | .mckr => s.mckr
  | .pllar => s.pllar
  | .cpr => s.cpr
  | .oscr => s.oscr
  | .pcr => pcrRead s
  | .pckenr => s.pckenr
  | .pck n => s.pck[n]

/-- A write of a register with its side effects (R47), by the host or by the engine. Writes of `RESULT`, `FSR`,
`MCKCACHE`, `SR` and the reserved word change nothing (R42, R49). For `CMD` this is the latch alone: the start of the
command that a host's write of it brings (R64) is `startWord`. -/
def writeReg (r : Reg) (v : Word) (s : State) : State :=
  match r with
  | .cmd => s.setCmd v
  | .arg0 => s.setArg0 v
  | .arg1 => s.setArg1 v
  | .result | .fsr | .mckcache | .sr | .reserved => s
  | .mckr => (s.setMckr v).setSr (lowerBit s.sr mckrdyBit)
  | .pllar => (s.setPllar v).setSr (lowerBit s.sr lockaBit)
  | .cpr => s.setCpr v
  | .oscr => s.setOscr v
  | .pcr => pcrWrite v s
  | .pckenr => s.setPckenr v
  | .pck n => s.setPck n v

/-! ## The host port (R44 to R46) -/

/-- Why the port gives an access no meaning (R42, R46), if it does. -/
def portRefusal (off width : Nat) : Option Refusal :=
  if 0x44 ≤ off then some .accessOutside
  else if width ≠ 4 then some .accessWidth
  else if off % 4 ≠ 0 then some .accessMisaligned
  else none

/-- `MemRead(off, 4)` (R44): the host receives the value; nothing of the block changes. -/
def hostRead (off : Nat) (s : State) : State :=
  match regAt off with
  | some r => s.setReply (some (readReg r s))
  | none => s

/-- `MemWrite(off, 4, v)` (R45) of a register other than `CMD`, while no command runs. In FAULTED it completes and
changes nothing (R51). -/
def hostWrite (off : Nat) (v : Word) (s : State) : State :=
  if s.seq = .faulted then s
  else
    match regAt off with
    | some r => writeReg r v s
    | none => s

/-! ## Taking a fault and reset -/

/-- `raise Fault(cause, info)` (R173). There is no return from it but reset (R176). -/
def raiseFault (c : Cause) (info : Byte) (s : State) : State :=
  (s.setFsr (faultStatus s.fsr c info)).setSeq .faulted

/-- R64, R65: what a write of a word that selects no command does. While a command runs it waits at the port, and in
FAULTED it is ignored. -/
def illegalCommand (w : Word) (s : State) : State :=
  match s.seq with
  | .idle => raiseFault .illegalCommand (bitField w 0 8) (s.setCmd w)
  | .run _ _ _ | .faulted => s

/-- R190: reset. The parameters are not changed (R191); the host access waiting behind a command in progress is
dropped; the other agents' inputs are as they were. -/
def resetBlock (s : State) : State :=
  { State.reset with
    params := s.params
    script := match s.seq with
      | .run _ _ _ => s.script.tail
      | .idle | .faulted => s.script
    turns := s.turns
    reply := s.reply }

/-! ## Micro-operations (R66) -/

/-- An entry of a command's sequence (R66). -/
inductive Micro where
  /-- `wr`, `rd`, `idle`, `inval`, `res`: always enabled, one atomic effect. -/
  | act (effect : State → State)
  /-- `wait COND`: enabled only while the condition holds; no effect. -/
  | wait (cond : State → Bool)
  /-- `if COND then ... end` around the next `n` entries: costs no step of its own. -/
  | ifThen (cond : State → Bool) (n : Nat)
  /-- `done`: the command ends. -/
  | done

/-- `wr NAME <- v`, the value read in the same atomic step (R66). -/
def microWr (r : Reg) (v : State → Word) : Micro := .act fun s => writeReg r (v s) s

/-- `rd t <- NAME` (R66). -/
def microRd (r : Reg) : Micro := .act fun s => s.setTemps { s.temps with t := readReg r s }

/-- `inval` (R66): the memoised word becomes unknown. -/
def microInval : Micro := .act fun s => s.setMckcache 0

/-- `res v` (R66). -/
def microRes (v : State → Word) : Micro := .act fun s => s.setResult (v s)

/-- `idle` (R66): no effect but on the settle counter of the temporaries (R12). -/
def microIdle : Micro := .act fun s => s.setTemps { s.temps with n := s.temps.n + 1 }

/-- `idle (SETTLE_ITER times)` (R109). -/
def settle (p : Params) : List Micro := List.replicate p.settleIter microIdle

/-- The turns until the engine makes an atomic step for which it needs `cond`: environment steps happen in their order,
and a `go` while `cond` does not hold passes, since the engine has no enabled step then (R67). The answer tells whether
the engine may make its step. It may not after a reset or a hold, or where the turns end and `cond` does not hold: a
hang (R67, R177), unless a later step of the model finds new turns. Where the turns end, the engine goes on by itself. -/
def await (cond : State → Bool) : List Turn → State → Bool × State
  | [], s => (cond s, s.setTurns [])
  | .go :: ts, s => if cond s then (true, s.setTurns ts) else await cond ts s
  | .env e :: ts, s => await cond ts (envStep e s)
  | .reset :: ts, s => (false, (resetBlock s).setTurns ts)
  | .hold :: ts, s => (false, s.setTurns ts)

/-- The engine carries out the rest of a sequence (R66): `k` is the index of its first entry, and the first `skip`
entries are passed over, being the branch of an `if` whose condition did not hold. The condition of an `if` is
evaluated before the turns of the environment that precede the next micro-operation: the environment changes `SR` only
(R27) and no condition of an `if` reads `SR`. -/
def run : List Micro → Nat → Nat → State → State
  | [], _, _, s => s
  | m :: ms, skip, k, s =>
    match skip with
    | skip' + 1 => run ms skip' (k + 1) s
    | 0 =>
      match m with
      | .ifThen cond n => run ms (if cond s then 0 else n) (k + 1) s
      | .act effect =>
        match await (fun _ => true) s.turns s with
        | (true, u) => run ms 0 (k + 1) ((effect u).setIndex (k + 1))
        | (false, u) => u
      | .wait cond =>
        match await cond s.turns s with
        | (true, u) => run ms 0 (k + 1) (u.setIndex (k + 1))
        | (false, u) => u
      | .done =>
        match await (fun _ => true) s.turns s with
        | (true, u) => u.setSeq .idle
        | (false, u) => u

/-- Command `i` with the sequence `sq` at its agent's turn. Written to `CMD` while the sequencer is IDLE it is latched
and checked (R64, R70): a failing check raises the fault, else the engine carries out the sequence from its first
micro-operation. Where it is the command in progress, the engine goes on with it. Where another command is in progress
the write waits at the port (R50), and in FAULTED it is ignored (R51). -/
def runCommand (i : Instr) (sq : List Micro) (s : State) : State :=
  match s.seq with
  | .idle =>
    match operandFault s.params i with
    | some c => raiseFault c (operandA i) (s.setCmd (encode i))
    | none => run sq 0 0 ((s.setCmd (encode i)).setSeq (.run (encode i) 0 {}))
  | .run w k _ => if w = encode i then run (sq.drop k) 0 k s else s
  | .faulted => s

end Sys2Proof.Machine
end

