-- ==== Sys2Proof/Machine/Queries.lean ====
section
/-! DEFINITION. The frequency queries and `INVAL` (spec/40_frequency_derivation.md R87 to R93). -/

namespace Sys2Proof.Machine

/-- R87: the sequence of `GETMCK` up to its `done`, with the value going where the caller says (R68). -/
def callGetmck (dest : Micro) : List Micro :=
  [.ifThen (fun s => s.mckcache == 0) 1,
   .act fun s => s.setMckcache (mckCompute s),
   dest]

/-- The master clock kept in the temporary `t` instead of `RESULT` (R68, R88, R134). -/
def microKeepMck : Micro := .act fun s => s.setTemps { s.temps with t := s.mckcache }

/-- R87. -/
def seqGetmck : List Micro := callGetmck (microRes fun s => s.mckcache) ++ [.done]

/-- R87: `GETMCK`. -/
def execGetmck (s : State) : Result := .next (runCommand .getmck seqGetmck s)

/-- R88: `MDIV` is read at the `res` step. -/
def seqGetcpu : List Micro :=
  callGetmck microKeepMck ++ [microRes fun s => s.temps.t * mdivFactor (mckrMdiv s.mckr), .done]

/-- R88: `GETCPU`. -/
def execGetcpu (s : State) : Result := .next (runCommand .getcpu seqGetcpu s)

/-- R91. -/
def seqGetslck : List Micro := [microRes fSlow, .done]

/-- R91: `GETSLCK`. -/
def execGetslck (s : State) : Result := .next (runCommand .getslck seqGetslck s)

/-- R92. -/
def seqGetmainck : List Micro := [microRes fMain, .done]

/-- R92: `GETMAINCK`. -/
def execGetmainck (s : State) : Result := .next (runCommand .getmainck seqGetmainck s)

/-- R93. -/
def seqGetplla : List Micro := [microRes fPlla, .done]

/-- R93: `GETPLLA`. -/
def execGetplla (s : State) : Result := .next (runCommand .getplla seqGetplla s)

/-- R89. -/
def seqInval : List Micro := [microInval, .done]

/-- R89: `INVAL`. -/
def execInval (s : State) : Result := .next (runCommand .inval seqInval s)

end Sys2Proof.Machine
end

