-- ==== Sys2Proof/Machine/Gating.lean ====
section
/-! DEFINITION. Peripheral clock gating (spec/43_peripheral_gating.md R130 to R136). -/

namespace Sys2Proof.Machine

/-- `wr PCR <- id`: select, nothing committed (R131). -/
def microSelect (id : Word) : Micro := microWr .pcr fun _ => id

/-- The word `ENP` writes back: commit with the enable bit set (R131). -/
def enableWord (t : Word) : Word := t ||| pcrCmdBit ||| pcrEnBit

/-- The word `DISP` writes back: commit with the enable bit clear (R132). -/
def disableWord (t : Word) : Word := (t &&& ~~~pcrEnBit) ||| pcrCmdBit

/-- R131. -/
def seqEnp (a : Byte) : List Micro :=
  [microSelect (a.setWidth 32), microRd .pcr, microWr .pcr fun s => enableWord s.temps.t, .done]

/-- R131: `ENP a`. -/
def execEnp (a : Byte) (s : State) : Result := .next (runCommand (.enp a) (seqEnp a) s)

/-- R132. -/
def seqDisp (a : Byte) : List Micro :=
  [microSelect (a.setWidth 32), microRd .pcr, microWr .pcr fun s => disableWord s.temps.t, .done]

/-- R132: `DISP a`. -/
def execDisp (a : Byte) (s : State) : Result := .next (runCommand (.disp a) (seqDisp a) s)

/-- R133: select and read, no write-back. -/
def seqIsenp (a : Byte) : List Micro :=
  [microSelect (a.setWidth 32), microRd .pcr, microRes fun s => if pcrEn s.temps.t then 1 else 0, .done]

/-- R133: `ISENP a`. -/
def execIsenp (a : Byte) (s : State) : Result := .next (runCommand (.isenp a) (seqIsenp a) s)

/-- R134: the divisor is tested first (D23); it is a parameter, so the test chooses the sequence. -/
def seqGetpclk (p : Params) (a : Byte) : List Micro :=
  if p.divisor a.toNat = 0 then [microRes fun _ => 0, .done]
  else callGetmck microKeepMck ++ [microRes fun s => s.temps.t / p.divisor a.toNat, .done]

/-- R134: `GETPCLK a`. -/
def execGetpclk (a : Byte) (s : State) : Result := .next (runCommand (.getpclk a) (seqGetpclk s.params a) s)

/-- R135: one round of the iteration, `call DISP(id)`, with the loop index kept in the temporaries (R12). -/
def disableRound (id : Nat) : List Micro :=
  [.act fun s => writeReg .pcr (BitVec.ofNat 32 id) (s.setTemps { s.temps with i := id }),
   microRd .pcr,
   microWr .pcr fun s => disableWord s.temps.t]

/-- R135: the ids the iteration visits, 2 to `N_PERIPH` - 1 in ascending order. -/
def gatedIds (p : Params) : List Nat := List.range' 2 (p.nPeriph - 2)

/-- R135: the iteration written out (R12). -/
def seqDisallp (p : Params) : List Micro := (gatedIds p).flatMap disableRound ++ [.done]

/-- R135: `DISALLP`. -/
def execDisallp (s : State) : Result := .next (runCommand .disallp (seqDisallp s.params) s)

end Sys2Proof.Machine
end

