-- ==== Sys2Proof/Machine/Pll.lean ====
section
/-! DEFINITION. PLL configuration (spec/42_pll_configuration.md R120 to R122). -/

namespace Sys2Proof.Machine

/-- R120: the two raw words, `PLLAR` first (D30), then the wait for lock. -/
def seqSetplla : List Micro :=
  [microWr .pllar fun s => s.arg0,
   microWr .cpr fun s => s.arg1,
   .wait State.locka,
   microInval,
   .done]

/-- R120: `SETPLLA`. -/
def execSetplla (s : State) : Result := .next (runCommand .setplla seqSetplla s)

/-- R121: the multiplier cleared, no wait. -/
def seqDisplla : List Micro := [microWr .pllar fun s => pllarWithMula s.pllar 0, microInval, .done]

/-- R121: `DISPLLA`. -/
def execDisplla (s : State) : Result := .next (runCommand .displla seqDisplla s)

end Sys2Proof.Machine
end

