-- ==== Sys2Proof/Machine/ProgClocks.lean ====
section
/-! DEFINITION. The programmable clock outputs (spec/44_programmable_clocks.md R150 to R155). -/

namespace Sys2Proof.Machine

/-- R153 up to its `done`: clear the enable of unit `n`, wait until it is not ready (D22). -/
def callDispck (n : Fin 3) : List Micro :=
  [microWr .pckenr fun s => lowerBit s.pckenr n.val, .wait fun s => !s.pckrdy n]

/-- R151: disable the unit, then write source and prescaler together; the unit stays disabled (D22). -/
def seqCfgpck (a b c : Byte) : List Micro :=
  callDispck (pckUnit a) ++ [microWr (.pck (pckUnit a)) fun _ => pckWord (b.setWidth 3) c, .done]

/-- R151: `CFGPCK a, b, c`. -/
def execCfgpck (a b c : Byte) (s : State) : Result := .next (runCommand (.cfgpck a b c) (seqCfgpck a b c) s)

/-- R152. -/
def seqEnpck (a : Byte) : List Micro :=
  [microWr .pckenr fun s => raiseBit s.pckenr (pckUnit a).val, .wait fun s => s.pckrdy (pckUnit a), .done]

/-- R152: `ENPCK a`. -/
def execEnpck (a : Byte) (s : State) : Result := .next (runCommand (.enpck a) (seqEnpck a) s)

/-- R153. -/
def seqDispck (a : Byte) : List Micro := callDispck (pckUnit a) ++ [.done]

/-- R153: `DISPCK a`. -/
def execDispck (a : Byte) (s : State) : Result := .next (runCommand (.dispck a) (seqDispck a) s)

/-- R154: always recomputed. -/
def seqGetpck (a : Byte) : List Micro := [microRes (fPck (pckUnit a)), .done]

/-- R154: `GETPCK a`. -/
def execGetpck (a : Byte) (s : State) : Result := .next (runCommand (.getpck a) (seqGetpck a) s)

end Sys2Proof.Machine
end

