-- ==== Sys2Proof/Machine/Switching.lean ====
section
/-! DEFINITION. Master-clock source switching and divider reconfiguration (spec/41_source_switching.md R100 to R109). -/

namespace Sys2Proof.Machine

/-- The pattern of this family: write a field of `MCKR`, block on the ready bit, invalidate the memoised word (R100 to
R105). -/
def changeMckr (v : State → Word) : List Micro := [microWr .mckr v, .wait State.mckrdy, microInval]

/-- `MCKR.CSS <- c`, wait, invalidate (R100 to R102). -/
def switchTo (c : BitVec 2) : List Micro := changeMckr fun s => mckrWithCss s.mckr c

/-- R100. -/
def seqSwmain : List Micro := switchTo 1 ++ [.done]

/-- R100: `SWMAIN`. -/
def execSwmain (s : State) : Result := .next (runCommand .swmain seqSwmain s)

/-- R101. -/
def seqSwpll : List Micro := switchTo 2 ++ [.done]

/-- R101: `SWPLL`. -/
def execSwpll (s : State) : Result := .next (runCommand .swpll seqSwpll s)

/-- R102. -/
def seqSwslck : List Micro := switchTo 0 ++ [.done]

/-- R102: `SWSLCK`. -/
def execSwslck (s : State) : Result := .next (runCommand .swslck seqSwslck s)

/-- R103: the operand's low 3 bits go to `PRES`. -/
def seqSetpres (a : Byte) : List Micro := changeMckr (fun s => mckrWithPres s.mckr (a.setWidth 3)) ++ [.done]

/-- R103: `SETPRES a`. -/
def execSetpres (a : Byte) (s : State) : Result := .next (runCommand (.setpres a) (seqSetpres a) s)

/-- R104: the operand's low 2 bits go to `MDIV`. -/
def seqSetmdiv (a : Byte) : List Micro := changeMckr (fun s => mckrWithMdiv s.mckr (a.setWidth 2)) ++ [.done]

/-- R104: `SETMDIV a`. -/
def execSetmdiv (a : Byte) (s : State) : Result := .next (runCommand (.setmdiv a) (seqSetmdiv a) s)

/-- R105: nothing at all where the flag has the requested value. -/
def seqSetplladiv2 (a : Byte) : List Micro :=
  .ifThen (fun s => mckrPlladiv2 s.mckr != a.setWidth 1) 3 ::
    changeMckr (fun s => mckrWithPlladiv2 s.mckr (a.setWidth 1)) ++ [.done]

/-- R105: `SETPLLADIV2 a`. -/
def execSetplladiv2 (a : Byte) (s : State) : Result := .next (runCommand (.setplladiv2 a) (seqSetplladiv2 a) s)

/-- The first write of the oscillator switch where the master clock is on the slow clock: `was_slow` is evaluated in
this first step and kept (R106); fresh temporaries hold it false otherwise (assumption 6). -/
def microLeaveSlow : Micro :=
  .act fun s => writeReg .mckr (mckrWithCss s.mckr 1) (s.setTemps { s.temps with wasSlow := true })

/-- R106, R107: move the master clock to the main clock if it is on the slow clock, select the oscillator, settle, move
the master clock back if it was moved, invalidate. -/
def switchSlowOscillator (p : Params) (sel : BitVec 1) : List Micro :=
  [.ifThen (fun s => mckrCss s.mckr == 0) 3, microLeaveSlow, .wait State.mckrdy, microInval,
   microWr .oscr fun s => oscrWithSlcksel s.oscr sel] ++
  settle p ++
  .ifThen (fun s => s.temps.wasSlow) 3 :: switchTo 0 ++
  [microInval, .done]

/-- R106: `SELXSLCK`. -/
def execSelxslck (s : State) : Result := .next (runCommand .selxslck (switchSlowOscillator s.params 1) s)

/-- R107: `SELISLCK`. -/
def execSelislck (s : State) : Result := .next (runCommand .selislck (switchSlowOscillator s.params 0) s)

end Sys2Proof.Machine
end

