-- ==== Sys2Proof/Machine/Dispatch.lean ====
section
/-! DEFINITION. The meaning of every command, one arm per constructor of `Instr`. -/

namespace Sys2Proof.Machine

def exec (i : Instr) (s : State) : Host.Outcome State Fault Refusal :=
  match i with
  | .getmck => Sys2Proof.Machine.execGetmck s
  | .getcpu => Sys2Proof.Machine.execGetcpu s
  | .getslck => Sys2Proof.Machine.execGetslck s
  | .getmainck => Sys2Proof.Machine.execGetmainck s
  | .getplla => Sys2Proof.Machine.execGetplla s
  | .inval => Sys2Proof.Machine.execInval s
  | .swmain => Sys2Proof.Machine.execSwmain s
  | .swpll => Sys2Proof.Machine.execSwpll s
  | .swslck => Sys2Proof.Machine.execSwslck s
  | .setpres a => Sys2Proof.Machine.execSetpres a s
  | .setmdiv a => Sys2Proof.Machine.execSetmdiv a s
  | .setplladiv2 a => Sys2Proof.Machine.execSetplladiv2 a s
  | .selxslck => Sys2Proof.Machine.execSelxslck s
  | .selislck => Sys2Proof.Machine.execSelislck s
  | .setplla => Sys2Proof.Machine.execSetplla s
  | .displla => Sys2Proof.Machine.execDisplla s
  | .enp a => Sys2Proof.Machine.execEnp a s
  | .disp a => Sys2Proof.Machine.execDisp a s
  | .isenp a => Sys2Proof.Machine.execIsenp a s
  | .getpclk a => Sys2Proof.Machine.execGetpclk a s
  | .disallp => Sys2Proof.Machine.execDisallp s
  | .cfgpck a b c => Sys2Proof.Machine.execCfgpck a b c s
  | .enpck a => Sys2Proof.Machine.execEnpck a s
  | .dispck a => Sys2Proof.Machine.execDispck a s
  | .getpck a => Sys2Proof.Machine.execGetpck a s

end Sys2Proof.Machine
end

