-- ==== Sys2Proof/Machine/Step.lean ====
section
/-! DEFINITION. One step of the model: the agent whose turn it is moves (spec/00_scope.md R7, spec/20_memory.md R50 to
R53). While a command runs the step is the engine's, and it lasts until the command ends, the engine has no enabled
micro-operation left, or a turn of the list ends it; between two commands a step is one access of the host, one step of
the environment or one reset. -/

namespace Sys2Proof.Machine

/-- R64: a write of `w` to `CMD`. -/
def startWord (w : Word) (s : State) : Result :=
  match decode w with
  | .ok i => exec i s
  | .error _ => .next (illegalCommand w s)

/-- R66, R67: the engine goes on with the command in progress; a reset whose turn it is comes first (R190). -/
def resumeWord (w : Word) (s : State) : Result :=
  match s.turns with
  | .reset :: ts => .next (resetBlock (s.setTurns ts))
  | _ =>
    match decode w with
    | .ok i => exec i s
    | .error _ => .fault .sequencerLost

/-- R44, R45: one access of the host at its port. -/
def serveAccess (a : HostAccess) (s : State) : Result :=
  match a with
  | .read off width =>
    match portRefusal off width with
    | some r => .refused r
    | none => .next (hostRead off s)
  | .write off width v =>
    match portRefusal off width with
    | some r => .refused r
    | none => if off = 0 then startWord v s else .next (hostWrite off v s)

/-- R50: the port serves the host's next access; without one nothing happens. -/
def hostTurn (s : State) : Result :=
  match s.script with
  | [] => .next s
  | a :: rest => serveAccess a (s.setScript rest)

/-- One step while no command runs: the agent at the head of the turns moves, the host where no turn is left. -/
def portTurn (s : State) : Result :=
  match s.turns with
  | [] => hostTurn s
  | .go :: ts => hostTurn (s.setTurns ts)
  | .env e :: ts => .next (envStep e (s.setTurns ts))
  | .reset :: ts => .next (resetBlock (s.setTurns ts))
  | .hold :: ts => .next (s.setTurns ts)

/-- One step of the model. -/
def step (s : State) : Result :=
  match s.seq with
  | .run w _ _ => resumeWord w s
  | .idle | .faulted => portTurn s

/-- `s` with the command word `w` as the host's next access, which the very next step serves: the sequencer is IDLE and
no other agent moves before the host. A command has 32 bits, so bits above them are none of it. -/
def State.withFetchWord (s : State) (nbits w : Nat) : State :=
  { s with
    seq := .idle
    turns := []
    script := .write 0 4 (BitVec.ofNat 32 (w % 2 ^ nbits)) :: s.script }

end Sys2Proof.Machine
end

