-- ==== Sys2Proof/Safety.lean ====
section
/-! DEFINITION. What counts as a good run of the block, in the terms the statements use. -/

namespace Sys2Proof.Machine

/-- R175: a state of a failed run. -/
def Faulted (s : State) : Prop := s.seq = .faulted

/-- R67, R177: a command is in progress, and no turn is left that could enable the engine: the state of a hang. -/
def Hung (s : State) : Prop := (∃ w k t, s.seq = .run w k t) ∧ step s = .next s

/-- R20, R21: the store is in its canonical form, its ids are valid and only bits of `CFG_MASK` are ever nonzero. -/
def StoreLegal (p : Params) (m : PeriphStore) : Prop :=
  m.wf ∧ ∀ e ∈ m, validId p e.1 = true ∧ e.2 &&& ~~~cfgMask = 0

/-- R30, R64, R173: how `SEQ`, `CMD` and `FSR` go together. While IDLE or running `FSR` is 0; a running word is the one in
`CMD`, is a command and has passed its operand check; in FAULTED `FSR` records one cause. -/
def SeqLegal (s : State) : Prop :=
  match s.seq with
  | .idle => s.fsr = 0
  | .run w _ _ => s.fsr = 0 ∧ s.cmd = w ∧ ∃ i, decode w = .ok i ∧ operandFault s.params i = none
  | .faulted => ∃ c info, s.fsr = faultStatus 0 c info

/-- What every state of a run meets: the unnamed bits of `SR` are 0 (R24), the store is legal, the sequencer is in
keeping with `CMD` and `FSR`. -/
def Coherent (s : State) : Prop :=
  s.sr &&& ~~~srMask = 0 ∧ StoreLegal s.params s.periph ∧ SeqLegal s

/-- The turns hold no reset: the command is not abandoned half way. -/
def NoReset (ts : List Turn) : Prop := Turn.reset ∉ ts

/-- The turns neither reset the block nor end the model's step: the engine makes every step it can. -/
def Unbroken (ts : List Turn) : Prop := Turn.reset ∉ ts ∧ Turn.hold ∉ ts

/-- The environment does nothing during these turns. -/
def Silent (ts : List Turn) : Prop := ∀ e, Turn.env e ∉ ts

/-- The environment answers a command whose first micro-operation asks for it: after the turn of that micro-operation
the environment takes step `e`, sooner or later, among whatever else it does. The fairness premise R27 and R193 ask a
claim of completion to state. -/
def Answers (e : EnvStep) (ts : List Turn) : Prop :=
  Unbroken ts ∧ ∃ before after,
    ts = before ++ .go :: after ∧ (∀ t ∈ before, ∃ e', t = .env e') ∧ .env e ∈ after

/-- The environment answers both waits of the oscillator switch (R106): `EnvMckReady` comes after the turn of the first
write of `MCKR`, and again after the second write. From the first answer on, the engine takes `between` turns up to and
including that of the second write. -/
def AnswersTwice (between : Nat) (ts : List Turn) : Prop :=
  Unbroken ts ∧ ∃ before waiting middle after,
    ts = before ++ .go :: (waiting ++ .env .mckReady :: (middle ++ .env .mckReady :: after)) ∧
      (∀ t ∈ before, ∃ e, t = .env e) ∧ between ≤ middle.count .go

/-- The host moves next, and `ts` are the turns left when it has moved: its turn is the head of the list, or the list has
ended. -/
def HostsTurn (s : State) (ts : List Turn) : Prop := s.turns = [] ∧ ts = [] ∨ s.turns = .go :: ts

/-- The commands whose sequences contain a `wait` (R177). -/
def CanHang : Instr → Prop
  | .swmain | .swpll | .swslck | .setpres _ | .setmdiv _ | .setplladiv2 _ | .selxslck | .selislck => True
  | .setplla | .cfgpck _ _ _ | .enpck _ | .dispck _ => True
  | .getmck | .getcpu | .getslck | .getmainck | .getplla | .inval => False
  | .displla | .enp _ | .disp _ | .isenp _ | .getpclk _ | .disallp | .getpck _ => False

/-- The registers of the map that a command may change (R58), with those that every command's write to `CMD` and the
environment change beside it (`CMD`, `FSR`, `SR`). -/
def mayChange (i : Instr) (r : Reg) : Prop :=
  match r with
  | .cmd | .fsr | .sr => True
  | .result =>
    match i with
    | .getmck | .getcpu | .getslck | .getmainck | .getplla | .isenp _ | .getpclk _ | .getpck _ => True
    | _ => False
  | .mckcache =>
    match i with
    | .getmck | .getcpu | .getpclk _ | .inval | .swmain | .swpll | .swslck | .setpres _ | .setmdiv _ => True
    | .setplladiv2 _ | .selxslck | .selislck | .setplla | .displla => True
    | _ => False
  | .mckr =>
    match i with
    | .swmain | .swpll | .swslck | .setpres _ | .setmdiv _ | .setplladiv2 _ | .selxslck | .selislck => True
    | _ => False
  | .pllar => i = .setplla ∨ i = .displla
  | .cpr => i = .setplla
  | .oscr => i = .selxslck ∨ i = .selislck
  | .pcr =>
    match i with
    | .enp _ | .disp _ | .isenp _ | .disallp => True
    | _ => False
  | .pckenr =>
    match i with
    | .cfgpck _ _ _ | .enpck _ | .dispck _ => True
    | _ => False
  | .pck n =>
    match i with
    | .cfgpck a _ _ => n = pckUnit a
    | _ => False
  | .arg0 | .arg1 | .reserved => False

end Sys2Proof.Machine
end

