-- ==== Sys2Proof/Certificates/Slice0/Obligations.lean ====
section
/-! DEFINITION. The statements for the provers. A statement about a whole command takes the sequencer IDLE; what a command
does in the other two states of the sequencer is `CommandWaitsWhileAnotherRunsAndIsIgnoredInFaulted`. Where a statement
says that some `sr` and `ts` are the status register and the turns left over, the environment's own steps among the turns
make that difference and nothing else does: `StatusBitsMoveOnlyByTheirCauses`. That the turns are a list in the state, and
that one step of the model is as much of a command as can go on, are the model's choices (assumptions 3 and 4). -/

open Sys2Proof Sys2Proof.Machine

/-! ## Encoding -/

/-- R61, R63: decoding the word of a command gives the command back, every operand at every value. -/
def Obligations.DecodeOfEncodeIsTheCommand : Prop :=
  ∀ i : Instr, i.WellFormed → decode (encode i) = .ok i

/-- R63, R65: a word has one meaning: a word that decodes is the word of the command it decodes to. -/
def Obligations.EncodeOfDecodeIsTheWord : Prop :=
  ∀ (w : Word) (i : Instr), decode w = .ok i → encode i = w ∧ i.WellFormed

/-- R63: a word decodes to the command of the table's row whose match and mask it meets. -/
def Obligations.DecodeSelectsTheTableRow : Prop :=
  ∀ (w : Word) (r : OpcodeRow), r ∈ opcodeTable →
    (w &&& r.mask = r.pattern ↔ ∃ i, decode w = .ok i ∧ mnemonic i = r.mnemonic)

/-- R61, R63: words written out from the encoding, one of each family. -/
def Obligations.WrittenOutWordsDecode : Prop :=
  decode 0x00000001 = .ok .getmck ∧ decode 0x00000213 = .ok (.setpres 2) ∧ decode 0x00000020 = .ok .setplla ∧
    decode 0x0000C831 = .ok (.disp 200) ∧ decode 0x03020040 = .ok (.cfgpck 0 2 3) ∧
    decode 0x00000241 = .ok (.enpck 2)

/-! ## The step, the host port, faults and reset -/

/-- R47, R64, R66: the step of a machine whose host writes the word of a command to `CMD`, or which is carrying one out,
is that command's meaning. -/
def Obligations.StepRunsTheDecodedCommand : Prop :=
  (∀ (s : State) (w : Word) (i : Instr) (rest : List HostAccess), s.seq = .idle → s.script = .write 0 4 w :: rest →
    decode w = .ok i →
      (s.turns = [] → step s = exec i (s.setScript rest)) ∧
      (∀ ts, s.turns = .go :: ts → step s = exec i ((s.setTurns ts).setScript rest))) ∧
  (∀ (s : State) (w : Word) (k : Nat) (t : Temps) (i : Instr), s.seq = .run w k t → decode w = .ok i →
    (∀ ts, s.turns ≠ .reset :: ts) → step s = exec i s)

/-- R64, R65, R173: the step in which the host writes to `CMD`, while IDLE, a word that meets no row of the table: the
word is latched and faults with the cause ILLEGAL_COMMAND and its `OP` byte; nothing else of the block changes. -/
def Obligations.IllegalWordFaults : Prop :=
  ∀ (w : Word) (s : State) (ts : List Turn) (rest : List HostAccess), s.seq = .idle → HostsTurn s ts →
    s.script = .write 0 4 w :: rest → (∀ r ∈ opcodeTable, w &&& r.mask ≠ r.pattern) →
    step s = .next (((((s.setCmd w).setFsr (faultStatus s.fsr .illegalCommand (bitField w 0 8))).setSeq
      .faulted).setScript rest).setTurns ts)

/-- R70, R171, R173, R174: a command whose operand check fails is latched and faults with the cause of the check and its
operand `A`; nothing else changes. From a clear `FSR` the recorded word is `FAULT`, the code of the cause and the
information byte in their places, the unnamed bits 0; and the codes of the four causes. -/
def Obligations.FailedOperandCheckFaults : Prop :=
  (∀ (i : Instr) (s : State) (c : Cause), s.seq = .idle → operandFault s.params i = some c →
    exec i s = .next (((s.setCmd (encode i)).setFsr (faultStatus s.fsr c (operandA i))).setSeq .faulted)) ∧
  (∀ (c : Cause) (info : Byte), faultStatus 0 c info =
    1 ||| (causeCode c).setWidth 32 <<< 8 ||| info.setWidth 32 <<< 16) ∧
  causeCode .invalidPeripheralId = 1 ∧ causeCode .invalidDividerEncoding = 2 ∧ causeCode .illegalCommand = 3 ∧
  causeCode .invalidPckIndex = 4

/-- R70, R171: which operands of which commands fail, and with what cause; the commands without a check. -/
def Obligations.OperandChecks : Prop :=
  ∀ (p : Params) (a b c : Byte),
    (∀ i, i = .enp a ∨ i = .disp a ∨ i = .isenp a ∨ i = .getpclk a →
      operandFault p i = if 2 ≤ a.toNat ∧ a.toNat < p.nPeriph then none else some .invalidPeripheralId) ∧
    operandFault p (.setpres a) = (if a.toNat < 7 then none else some .invalidDividerEncoding) ∧
    operandFault p (.setmdiv a) = (if a.toNat < 4 then none else some .invalidDividerEncoding) ∧
    operandFault p (.setplladiv2 a) = (if a.toNat < 2 then none else some .invalidDividerEncoding) ∧
    (∀ i, i = .cfgpck a b c ∨ i = .enpck a ∨ i = .dispck a ∨ i = .getpck a →
      operandFault p i = if a.toNat < 3 then none else some .invalidPckIndex) ∧
    (∀ i ∈ [.getmck, .getcpu, .getslck, .getmainck, .getplla, .inval, .swmain, .swpll, .swslck, .selxslck, .selislck,
      .setplla, .displla, .disallp], operandFault p i = none)

/-- R130: the valid peripheral IDs, and that no operand of 128 or more is one. -/
def Obligations.ValidPeripheralIds : Prop :=
  ∀ (p : Params) (id : Nat), (validId p id = true ↔ 2 ≤ id ∧ id < p.nPeriph) ∧
    (128 ≤ id → validId p id = false) ∧ validId p 0 = false ∧ validId p 1 = false ∧
    validId p (p.nPeriph - 1) = true ∧ validId p p.nPeriph = false

/-- R51: a command written in FAULTED is ignored. The other clause is the model's reading (assumption 17, DEDUCED): R64 says
that a word written while another is in progress cannot arise, since R50 stalls the port, and the model gives the meaning
of a command there the effect of a write that waits, which is none. -/
def Obligations.CommandWaitsWhileAnotherRunsAndIsIgnoredInFaulted : Prop :=
  ∀ (i : Instr) (s : State),
    (∀ w k t, s.seq = .run w k t → w ≠ encode i → exec i s = .next s) ∧ (s.seq = .faulted → exec i s = .next s)

/-- R41, R44, R51: a host read of each offset of the map returns that register's value and changes nothing of the block,
while IDLE and in FAULTED. -/
def Obligations.HostReadReturnsTheRegister : Prop :=
  ∀ (s : State) (ts : List Turn) (rest : List HostAccess) (off : Nat) (v : Word),
    s.seq = .idle ∨ s.seq = .faulted → HostsTurn s ts → s.script = .read off 4 :: rest →
    (off, v) ∈ [(0x00, s.cmd), (0x04, s.arg0), (0x08, s.arg1), (0x0C, s.result), (0x10, s.fsr), (0x14, s.mckcache),
      (0x18, s.sr), (0x1C, 0), (0x20, s.mckr), (0x24, s.pllar), (0x28, s.cpr), (0x2C, s.oscr), (0x30, pcrRead s),
      (0x34, s.pckenr), (0x38, s.pck[0]), (0x3C, s.pck[1]), (0x40, s.pck[2])] →
    step s = .next (((s.setScript rest).setReply (some v)).setTurns ts)

/-- R41, R45, R47: a host write of each writable offset other than `CMD` while IDLE. -/
def Obligations.HostWriteStoresTheRegister : Prop :=
  ∀ (s u : State) (ts : List Turn) (rest : List HostAccess) (off : Nat) (v : Word), s.seq = .idle → HostsTurn s ts →
    s.script = .write off 4 v :: rest →
    (off, u) ∈ [(0x04, s.setArg0 v), (0x08, s.setArg1 v), (0x20, (s.setMckr v).setSr (lowerBit s.sr 3)),
      (0x24, (s.setPllar v).setSr (lowerBit s.sr 1)), (0x28, s.setCpr v), (0x2C, s.setOscr v), (0x30, pcrWrite v s),
      (0x34, s.setPckenr v), (0x38, s.setPck 0 v), (0x3C, s.setPck 1 v), (0x40, s.setPck 2 v)] →
    step s = .next ((u.setScript rest).setTurns ts)

/-- R42, R49: host writes of `RESULT`, `FSR`, `MCKCACHE`, `SR` and the reserved word complete and change nothing. -/
def Obligations.ReadOnlyRegistersIgnoreHostWrites : Prop :=
  ∀ (s : State) (ts : List Turn) (rest : List HostAccess) (off : Nat) (v : Word),
    s.seq = .idle ∨ s.seq = .faulted → HostsTurn s ts → s.script = .write off 4 v :: rest →
    off ∈ [0x0C, 0x10, 0x14, 0x18, 0x1C] → step s = .next ((s.setScript rest).setTurns ts)

/-- R42, R46: an access outside the block, of another width or at a misaligned offset is refused and an access inside is
not. The name of the refusal where several hold is the model's choice (assumption 9). -/
def Obligations.PortRefusesOtherAccesses : Prop :=
  ∀ (s : State) (ts : List Turn) (a : HostAccess) (rest : List HostAccess) (off width : Nat),
    s.seq = .idle ∨ s.seq = .faulted → HostsTurn s ts → s.script = a :: rest →
    (a = .read off width ∨ ∃ v, a = .write off width v) →
    ((∃ r, step s = .refused r) ↔ 0x44 ≤ off ∨ width ≠ 4 ∨ off % 4 ≠ 0)

/-- R48: a write of `PCR` and a read of it. -/
def Obligations.PcrWindow : Prop :=
  ∀ (s : State) (v : Word),
    (pcrWrite v s).pcrSel = bitField v 0 7 ∧
    (∀ id, storeRead id (pcrWrite v s).periph =
      if bitSet v 12 = true ∧ id = (bitField v 0 7).toNat ∧ 2 ≤ id ∧ id < s.params.nPeriph then v &&& 0xFFFFEF80
      else storeRead id s.periph) ∧
    pcrWrite v s = (s.setPcrSel (pcrWrite v s).pcrSel).setPeriph (pcrWrite v s).periph ∧
    readReg .pcr s = (if 2 ≤ s.pcrSel.toNat ∧ s.pcrSel.toNat < s.params.nPeriph then
      s.pcrSel.setWidth 32 ||| storeRead s.pcrSel.toNat s.periph else s.pcrSel.setWidth 32) ∧
    (StoreLegal s.params s.periph → bitSet (readReg .pcr s) 12 = false)

/-- R50: while a command runs no access of the host is served. -/
def Obligations.PortStallsWhileACommandRuns : Prop :=
  ∀ (s s' : State) (w : Word) (k : Nat) (t : Temps), s.seq = .run w k t → NoReset s.turns → step s = .next s' →
    s'.script = s.script ∧ s'.reply = s.reply ∧ s'.cmd = s.cmd ∧ s'.arg0 = s.arg0 ∧ s'.arg1 = s.arg1

/-- R51, R175, R176: in FAULTED a step is a reset, or the environment's, which changes `SR` as its step does, or changes
nothing of the block at all, whatever the host writes. -/
def Obligations.FaultedIsLeftByResetOnly : Prop :=
  ∀ s s' : State, s.seq = .faulted → step s = .next s' →
    (∃ ts, s.turns = .reset :: ts) ∨
    (∃ e ts, s.turns = .env e :: ts ∧ s' = (s.setSr (envStep e s).sr).setTurns ts) ∨
    s' = ((s.setScript s'.script).setTurns s'.turns).setReply s'.reply

/-- R170, R173, R174: a fault is taken only in the step that writes a word to `CMD` while IDLE, and that step changes
`CMD`, `FSR` and `SEQ` only. -/
def Obligations.FaultsComeFromCommandWordsOnly : Prop :=
  ∀ s s' : State, step s = .next s' → s.seq ≠ .faulted → s'.seq = .faulted →
    s.seq = .idle ∧ ∃ v rest, s.script = .write 0 4 v :: rest ∧
      s' = ((((s.setCmd v).setFsr s'.fsr).setSeq .faulted).setScript rest).setTurns s'.turns

/-- R31, R190, R191: reset, whenever its turn comes, in every state of the sequencer. The host's access that waits
behind a command in progress is dropped; that it is the first of the list is the model's choice (assumption 5). -/
def Obligations.ResetSetsEveryRegister : Prop :=
  ∀ (s : State) (ts : List Turn), s.turns = .reset :: ts →
    ∃ t, step s = .next t ∧ t.seq = .idle ∧ t.fsr = 0 ∧ t.mckcache = 0 ∧ t.sr = 0x00000008 ∧
      t.cmd = 0 ∧ t.arg0 = 0 ∧ t.arg1 = 0 ∧ t.result = 0 ∧ t.mckr = 0 ∧ t.pllar = 0 ∧ t.cpr = 0 ∧ t.oscr = 0 ∧
      t.pcrSel = 0 ∧ (∀ id, storeRead id t.periph = 0) ∧ t.pckenr = 0 ∧ (∀ n : Fin 3, t.pck[n] = 0) ∧
      t.params = s.params ∧ t.turns = ts ∧ t.reply = s.reply ∧
      (s.seq = .idle ∨ s.seq = .faulted → t.script = s.script) ∧
      ((∃ w k u, s.seq = .run w k u) → t.script = s.script.tail)

/-- R31: the state after reset. -/
def Obligations.ResetStateHoldsTheResetValues : Prop :=
  State.reset.seq = .idle ∧ State.reset.fsr = 0 ∧ State.reset.mckcache = 0 ∧ State.reset.sr = 0x00000008 ∧
    State.reset.cmd = 0 ∧ State.reset.arg0 = 0 ∧ State.reset.arg1 = 0 ∧ State.reset.result = 0 ∧
    State.reset.mckr = 0 ∧ State.reset.pllar = 0 ∧ State.reset.cpr = 0 ∧ State.reset.oscr = 0 ∧
    State.reset.pcrSel = 0 ∧ (∀ id, storeRead id State.reset.periph = 0) ∧ State.reset.pckenr = 0 ∧
    ∀ n : Fin 3, State.reset.pck[n] = 0

/-! ## The status register and the environment -/

/-- R27: the four steps of the environment, each under its guard, that it changes nothing else, and that it moves
between two commands and in FAULTED when its turn comes. That the turn of a step whose guard does not hold passes with no
effect is the model's reading (assumption 12, DEDUCED): R27 says only that such a step is not enabled. -/
def Obligations.EnvironmentSteps : Prop :=
  ∀ (s : State) (n : Fin 3),
    (∀ e ts, s.seq = .idle ∨ s.seq = .faulted → s.turns = .env e :: ts → step s = .next (envStep e (s.setTurns ts))) ∧
    (envStep .mckReady s = if bitSet s.sr 3 then s else s.setSr (s.sr ||| 0x8)) ∧
    (envStep .lock s = if bitSet s.sr 1 then s else s.setSr (s.sr ||| 0x2)) ∧
    (envStep (.pckUp n) s =
      if bitSet s.sr (8 + n.val) = false ∧ bitSet s.pckenr n.val = true then s.setSr (s.sr ||| 1#32 <<< (8 + n.val))
      else s) ∧
    (envStep (.pckDown n) s =
      if bitSet s.sr (8 + n.val) = true ∧ bitSet s.pckenr n.val = false then
        s.setSr (s.sr &&& ~~~(1#32 <<< (8 + n.val)))
      else s)

/-- R25, R26: every write of `MCKR` lowers `MCKRDY` and every write of `PLLAR` lowers `LOCKA`, whatever the value, and
the other bits of `SR` stay. -/
def Obligations.WritesLowerTheReadyBits : Prop :=
  ∀ (s : State) (v : Word) (j : Nat), j < 32 →
    bitSet (writeReg .mckr v s).sr j = (if j = 3 then false else bitSet s.sr j) ∧
    bitSet (writeReg .pllar v s).sr j = (if j = 1 then false else bitSet s.sr j)

/-- R24 to R27: during a command without reset a status bit rises only by its environment step, and falls only by a
command that writes its register or, for a programmable clock, by its environment step. -/
def Obligations.StatusBitsMoveOnlyByTheirCauses : Prop :=
  ∀ (i : Instr) (s t : State) (n : Fin 3), NoReset s.turns → exec i s = .next t →
    (Turn.env .mckReady ∉ s.turns → t.mckrdy = true → s.mckrdy = true) ∧
    (Turn.env .lock ∉ s.turns → t.locka = true → s.locka = true) ∧
    (Turn.env (.pckUp n) ∉ s.turns → t.pckrdy n = true → s.pckrdy n = true) ∧
    (Turn.env (.pckDown n) ∉ s.turns → s.pckrdy n = true → t.pckrdy n = true) ∧
    (¬ mayChange i .mckr → s.mckrdy = true → t.mckrdy = true) ∧
    (¬ mayChange i .pllar → s.locka = true → t.locka = true)

/-! ## Frequency derivation -/

/-- R84, R85: the prescaler and the master-divider stages and the inverse factor, as numbers. -/
def Obligations.PrescalerAndDividerStages : Prop :=
  ∀ f : Word,
    (∀ e : BitVec 3, (presApply e f).toNat = if e.toNat ≤ 6 then f.toNat / 2 ^ e.toNat else f.toNat) ∧
    (mdivApply 0 f).toNat = f.toNat ∧ (mdivApply 1 f).toNat = f.toNat / 2 ∧ (mdivApply 2 f).toNat = f.toNat / 4 ∧
    (mdivApply 3 f).toNat = f.toNat / 3 ∧
    mdivFactor 0 = 1 ∧ mdivFactor 1 = 2 ∧ mdivFactor 2 = 4 ∧ mdivFactor 3 = 3

/-- R80, R81, R83, R86: the sources and the order of the stages. -/
def Obligations.MasterClockChain : Prop :=
  ∀ s : State,
    fSlow s = (if bitSet s.oscr 0 then s.params.fSlowXtal else s.params.fSlowRc) ∧
    fMain s = (if bitSet s.oscr 1 then s.params.fMainXtal else s.params.fMainRc) ∧
    fSrc 0 s = fSlow s ∧ fSrc 1 s = fMain s ∧ fSrc 2 s = fPlla s ∧ (∀ c, 3 ≤ c → fSrc c s = 0) ∧
    mckCompute s =
      mdivApply (bitField s.mckr 8 2) (presApply (bitField s.mckr 4 3) (fSrc (bitField s.mckr 0 2).toNat s))

/-- R82, R95: where the product does not wrap, the PLLA output is the mathematical value, and it does not wrap up to
33,554,431 Hz. The wrap itself is R94's: the product modulo 2^32. -/
def Obligations.PllaOutputValue : Prop :=
  ∀ s : State,
    let m := (bitField s.pllar 18 7).toNat
    let d := (bitField s.pllar 0 8).toNat
    let h := if bitSet s.mckr 12 then 2 else 1
    (fPlla s).toNat = (if d = 0 then 0 else ((fMain s).toNat * (m + 1) % 2 ^ 32) / d / h) ∧
    ((fMain s).toNat ≤ 33554431 → (fPlla s).toNat = if d = 0 then 0 else (fMain s).toNat * (m + 1) / d / h)

/-- R88 (a), (d), R200: the processor clock multiplied back up never exceeds the frequency before the divider and falls
short of it by less than the inverse factor. -/
def Obligations.ReconstructedProcessorClockBound : Prop :=
  ∀ (e : BitVec 2) (f : Word),
    (mdivApply e f * mdivFactor e).toNat ≤ f.toNat ∧
    f.toNat < (mdivApply e f * mdivFactor e).toNat + (mdivFactor e).toNat

/-- R91, R92, R93: the three source queries. `RESULT` is the derived frequency, nothing is cached. -/
def Obligations.SourceQueriesComplete : Prop :=
  ∀ (s : State) (i : Instr) (v : Word), s.seq = .idle → Unbroken s.turns →
    (i = .getslck ∧ v = fSlow s ∨ i = .getmainck ∧ v = fMain s ∨ i = .getplla ∧ v = fPlla s) →
    ∃ sr ts, exec i s = .next ((((s.setCmd (encode i)).setResult v).setSr sr).setTurns ts) ∧
      (Silent s.turns → sr = s.sr)

/-- R87: `GETMCK` returns the memoised word, which it fills first where it is 0. -/
def Obligations.GetmckCompletes : Prop :=
  ∀ s : State, s.seq = .idle → Unbroken s.turns →
    let m := if s.mckcache = 0 then mckCompute s else s.mckcache
    ∃ sr ts, exec .getmck s =
        .next (((((s.setCmd (encode .getmck)).setMckcache m).setResult m).setSr sr).setTurns ts) ∧
      (Silent s.turns → sr = s.sr)

/-- R88: `GETCPU` returns the master clock times the inverse factor of the current divider encoding. -/
def Obligations.GetcpuCompletes : Prop :=
  ∀ s : State, s.seq = .idle → Unbroken s.turns →
    let m := if s.mckcache = 0 then mckCompute s else s.mckcache
    ∃ sr ts, exec .getcpu s =
        .next (((((s.setCmd (encode .getcpu)).setMckcache m).setResult
          (m * mdivFactor (mckrMdiv s.mckr))).setSr sr).setTurns ts) ∧
      (Silent s.turns → sr = s.sr)

/-- R89: `INVAL` sets the memoised word to 0 and changes nothing else. -/
def Obligations.InvalCompletes : Prop :=
  ∀ s : State, s.seq = .idle → Unbroken s.turns →
    ∃ sr ts, exec .inval s = .next ((((s.setCmd 0x00000006).setMckcache 0).setSr sr).setTurns ts) ∧
      (Silent s.turns → sr = s.sr)

/-- R191: `GETMCK` as the first command after reset returns the internal slow RC frequency, whatever it is. -/
def Obligations.FirstQueryAfterResetReturnsTheSlowRc : Prop :=
  ∃ t, exec .getmck State.reset = .next t ∧ t.result = Config.params.fSlowRc ∧ t.seq = .idle

/-! ## Source switching and dividers -/

/-- R100, R101, R102, R108: each switch, from every source, once the environment answers. -/
def Obligations.SwitchCommandsComplete : Prop :=
  ∀ (s : State) (i : Instr) (c : BitVec 2), s.seq = .idle → Answers .mckReady s.turns →
    (i = .swmain ∧ c = 1 ∨ i = .swpll ∧ c = 2 ∨ i = .swslck ∧ c = 0) →
    ∃ sr ts, exec i s =
        .next (((((s.setCmd (encode i)).setMckr (insertField s.mckr 0 c)).setMckcache 0).setSr sr).setTurns ts) ∧
      bitSet sr 3 = true

/-- R103, R104: the divider commands, for every operand that passes the check, once the environment answers. -/
def Obligations.DividerCommandsComplete : Prop :=
  ∀ (s : State) (i : Instr) (a : Byte) (m : Word), s.seq = .idle → Answers .mckReady s.turns →
    (i = .setpres a ∧ a.toNat ≤ 6 ∧ m = insertField s.mckr 4 (a.setWidth 3) ∨
      i = .setmdiv a ∧ a.toNat ≤ 3 ∧ m = insertField s.mckr 8 (a.setWidth 2)) →
    ∃ sr ts, exec i s =
        .next (((((s.setCmd (encode i)).setMckr m).setMckcache 0).setSr sr).setTurns ts) ∧ bitSet sr 3 = true

/-- R105: `SETPLLADIV2` writes, waits and invalidates where the flag differs, and changes nothing at all where it has
the requested value. -/
def Obligations.Setplladiv2Completes : Prop :=
  ∀ (s : State) (a : Byte), s.seq = .idle → a.toNat ≤ 1 →
    (bitField s.mckr 12 1 ≠ a.setWidth 1 → Answers .mckReady s.turns →
      ∃ sr ts, exec (.setplladiv2 a) s =
        .next (((((s.setCmd (encode (.setplladiv2 a))).setMckr (insertField s.mckr 12 (a.setWidth 1))).setMckcache
          0).setSr sr).setTurns ts) ∧ bitSet sr 3 = true) ∧
    (bitField s.mckr 12 1 = a.setWidth 1 → Unbroken s.turns →
      ∃ sr ts, exec (.setplladiv2 a) s =
        .next (((s.setCmd (encode (.setplladiv2 a))).setSr sr).setTurns ts) ∧ (Silent s.turns → sr = s.sr))

/-- R106, R107, R109: the oscillator switch while the master clock is on the slow clock, once the environment answers after
each of the two writes of `MCKR`. Between the first answer and the second write the engine takes a turn for the wait, the
invalidation, the select bit, each idle step and the write. `MCKR` ends as it was. -/
def Obligations.OscillatorSwitchFromTheSlowClockCompletes : Prop :=
  ∀ (s : State) (i : Instr) (sel : BitVec 1), s.seq = .idle → bitField s.mckr 0 2 = 0 →
    AnswersTwice (s.params.settleIter + 4) s.turns → (i = .selxslck ∧ sel = 1 ∨ i = .selislck ∧ sel = 0) →
    ∃ sr ts, exec i s =
        .next (((((s.setCmd (encode i)).setOscr (insertField s.oscr 0 sel)).setMckcache 0).setSr sr).setTurns ts) ∧
      bitSet sr 3 = true

/-- R106 (b), R107: the oscillator switch while the master clock is on another source: `MCKR` is not touched and there is
nothing to wait for. -/
def Obligations.OscillatorSwitchFromOtherSourcesCompletes : Prop :=
  ∀ (s : State) (i : Instr) (sel : BitVec 1), s.seq = .idle → bitField s.mckr 0 2 ≠ 0 → Unbroken s.turns →
    (i = .selxslck ∧ sel = 1 ∨ i = .selislck ∧ sel = 0) →
    ∃ sr ts, exec i s =
        .next (((((s.setCmd (encode i)).setOscr (insertField s.oscr 0 sel)).setMckcache 0).setSr sr).setTurns ts) ∧
      (Silent s.turns → sr = s.sr)

/-! ## PLL -/

/-- R120: `SETPLLA` writes both raw words and ends locked, once the environment locks. -/
def Obligations.SetpllaCompletes : Prop :=
  ∀ s : State, s.seq = .idle → Answers .lock s.turns →
    ∃ sr ts, exec .setplla s =
        .next ((((((s.setCmd 0x00000020).setPllar s.arg0).setCpr s.arg1).setMckcache 0).setSr sr).setTurns ts) ∧
      bitSet sr 1 = true

/-- R121: `DISPLLA` clears the multiplier, lowers `LOCKA` and ends without a wait; the derived frequency is then the main
clock over the divider. -/
def Obligations.DispllaCompletes : Prop :=
  ∀ s : State, s.seq = .idle → Unbroken s.turns →
    ∃ sr ts t, exec .displla s = .next t ∧
      t = ((((s.setCmd 0x00000021).setPllar (insertField s.pllar 18 0#7)).setMckcache 0).setSr sr).setTurns ts ∧
      (Silent s.turns → sr = lowerBit s.sr 1) ∧
      (fPlla t).toNat = (if bitField s.pllar 0 8 = 0 then 0
        else (fMain s).toNat / (bitField s.pllar 0 8).toNat / (if bitSet s.mckr 12 then 2 else 1))

/-! ## Peripheral gating -/

/-- R131: `ENP` sets the gate bit of its peripheral and leaves the selector on it. -/
def Obligations.EnpCompletes : Prop :=
  ∀ (s : State) (a : Byte), s.seq = .idle → Unbroken s.turns → validId s.params a.toNat = true →
    StoreLegal s.params s.periph →
    ∃ sr ts, exec (.enp a) s =
        .next (((((s.setCmd (encode (.enp a))).setPcrSel (a.setWidth 7)).setPeriph
          (storeWrite a.toNat (storeRead a.toNat s.periph ||| 0x10000000) s.periph)).setSr sr).setTurns ts) ∧
      (Silent s.turns → sr = s.sr)

/-- R132: `DISP` clears the gate bit of its peripheral and leaves the selector on it. -/
def Obligations.DispCompletes : Prop :=
  ∀ (s : State) (a : Byte), s.seq = .idle → Unbroken s.turns → validId s.params a.toNat = true →
    StoreLegal s.params s.periph →
    ∃ sr ts, exec (.disp a) s =
        .next (((((s.setCmd (encode (.disp a))).setPcrSel (a.setWidth 7)).setPeriph
          (storeWrite a.toNat (storeRead a.toNat s.periph &&& ~~~0x10000000) s.periph)).setSr sr).setTurns ts) ∧
      (Silent s.turns → sr = s.sr)

/-- R133: `ISENP` returns the gate bit and moves the selector, nothing else. -/
def Obligations.IsenpCompletes : Prop :=
  ∀ (s : State) (a : Byte), s.seq = .idle → Unbroken s.turns → validId s.params a.toNat = true →
    ∃ sr ts, exec (.isenp a) s =
        .next (((((s.setCmd (encode (.isenp a))).setPcrSel (a.setWidth 7)).setResult
          (if bitSet (storeRead a.toNat s.periph) 28 then 1 else 0)).setSr sr).setTurns ts) ∧
      (Silent s.turns → sr = s.sr)

/-- R134: `GETPCLK` divides the master clock by the peripheral's divisor, and answers 0 without looking at the master
clock where the divisor is 0. -/
def Obligations.GetpclkCompletes : Prop :=
  ∀ (s : State) (a : Byte), s.seq = .idle → Unbroken s.turns → validId s.params a.toNat = true →
    let d := s.params.divisor a.toNat
    let m := if d = 0 then s.mckcache else if s.mckcache = 0 then mckCompute s else s.mckcache
    ∃ sr ts, exec (.getpclk a) s =
        .next (((((s.setCmd (encode (.getpclk a))).setMckcache m).setResult
          (if d = 0 then 0 else m / d)).setSr sr).setTurns ts) ∧
      (Silent s.turns → sr = s.sr)

/-- R135: `DISALLP` clears the gate bit of every peripheral, leaves every other bit of the store, and leaves the selector
on the last ID. -/
def Obligations.DisallpCompletes : Prop :=
  ∀ s : State, s.seq = .idle → Unbroken s.turns → StoreLegal s.params s.periph →
    ∃ m sr ts, exec .disallp s =
        .next (((((s.setCmd 0x00000034).setPcrSel (BitVec.ofNat 7 (s.params.nPeriph - 1))).setPeriph m).setSr
          sr).setTurns ts) ∧
      (∀ id, storeRead id m = storeRead id s.periph &&& ~~~0x10000000) ∧ (Silent s.turns → sr = s.sr)

/-- R132 (a), R135 (c): disabling twice is disabling once. -/
def Obligations.DisablingTwiceIsDisablingOnce : Prop :=
  ∀ (s t u : State) (i : Instr), i = .disallp ∨ (∃ a, i = .disp a) → s.seq = .idle → s.turns = [] →
    operandFault s.params i = none → StoreLegal s.params s.periph →
    exec i s = .next t → exec i t = .next u → u = t

/-! ## Programmable clocks -/

/-- R150, R154: `GETPCK` returns source over prescaler plus one, always recomputed. -/
def Obligations.GetpckCompletes : Prop :=
  ∀ (s : State) (n : Fin 3), s.seq = .idle → Unbroken s.turns →
    ∃ sr ts v, exec (.getpck (BitVec.ofNat 8 n.val)) s =
        .next ((((s.setCmd (encode (.getpck (BitVec.ofNat 8 n.val)))).setResult v).setSr sr).setTurns ts) ∧
      v.toNat = (fSrc (bitField s.pck[n] 0 3).toNat s).toNat / ((bitField s.pck[n] 4 8).toNat + 1) ∧
      (Silent s.turns → sr = s.sr)

/-- R151: `CFGPCK` disables the unit, waits until it is not ready, writes source and prescaler together and leaves the
unit disabled: at once where the unit is not ready, else once the environment answers. -/
def Obligations.CfgpckCompletes : Prop :=
  ∀ (s : State) (n : Fin 3) (b c : Byte), s.seq = .idle →
    (Unbroken s.turns ∧ s.pckrdy n = false ∧ Turn.env (.pckUp n) ∉ s.turns ∨ Answers (.pckDown n) s.turns) →
    ∃ sr ts, exec (.cfgpck (BitVec.ofNat 8 n.val) b c) s =
        .next (((((s.setCmd (encode (.cfgpck (BitVec.ofNat 8 n.val) b c))).setPckenr
          (s.pckenr &&& ~~~(1#32 <<< n.val))).setPck n
            ((b.setWidth 3).setWidth 32 ||| c.setWidth 32 <<< 4)).setSr sr).setTurns ts) ∧
      bitSet sr (8 + n.val) = false ∧ (Silent s.turns → sr = s.sr)

/-- R152: `ENPCK` enables the unit and ends when it is ready: at once where it is ready, else once the environment
answers. -/
def Obligations.EnpckCompletes : Prop :=
  ∀ (s : State) (n : Fin 3), s.seq = .idle →
    (Unbroken s.turns ∧ s.pckrdy n = true ∧ Turn.env (.pckDown n) ∉ s.turns ∨ Answers (.pckUp n) s.turns) →
    ∃ sr ts, exec (.enpck (BitVec.ofNat 8 n.val)) s =
        .next ((((s.setCmd (encode (.enpck (BitVec.ofNat 8 n.val)))).setPckenr
          (s.pckenr ||| 1#32 <<< n.val)).setSr sr).setTurns ts) ∧
      bitSet sr (8 + n.val) = true ∧ (Silent s.turns → sr = s.sr)

/-- R153: `DISPCK` disables the unit and ends when it is not ready: at once where it is not, else once the environment
answers. -/
def Obligations.DispckCompletes : Prop :=
  ∀ (s : State) (n : Fin 3), s.seq = .idle →
    (Unbroken s.turns ∧ s.pckrdy n = false ∧ Turn.env (.pckUp n) ∉ s.turns ∨ Answers (.pckDown n) s.turns) →
    ∃ sr ts, exec (.dispck (BitVec.ofNat 8 n.val)) s =
        .next ((((s.setCmd (encode (.dispck (BitVec.ofNat 8 n.val)))).setPckenr
          (s.pckenr &&& ~~~(1#32 <<< n.val))).setSr sr).setTurns ts) ∧
      bitSet sr (8 + n.val) = false ∧ (Silent s.turns → sr = s.sr)

/-- R155: a command on unit `n` leaves the other units alone. -/
def Obligations.ProgrammableClockUnitsAreIndependent : Prop :=
  ∀ (s t : State) (i : Instr) (a b c : Byte) (m : Fin 3),
    i = .cfgpck a b c ∨ i = .enpck a ∨ i = .dispck a ∨ i = .getpck a → m ≠ pckUnit a → NoReset s.turns →
    exec i s = .next t →
    t.pck[m] = s.pck[m] ∧ t.pcken m = s.pcken m ∧
      (Turn.env (.pckUp m) ∉ s.turns → Turn.env (.pckDown m) ∉ s.turns → t.pckrdy m = s.pckrdy m)

/-! ## The machine as a whole -/

/-- R20, R21, R24, R30, R64, R173: every step keeps the state coherent. -/
def Obligations.EveryStepKeepsTheStateCoherent : Prop :=
  ∀ s s' : State, Coherent s → step s = .next s' → Coherent s'

/-- R31: the state after reset is coherent. -/
def Obligations.ResetStateIsCoherent : Prop := Coherent State.reset

/-- R170, R177: from a coherent state the model never stops with a fault: the block's faults are states. -/
def Obligations.CoherentStatesNeverStopWithAFault : Prop :=
  ∀ (s : State) (r : Fault), Coherent s → step s ≠ .fault r

/-- R32, R191: no step changes the parameters. -/
def Obligations.ParametersNeverChange : Prop :=
  ∀ s s' : State, step s = .next s' → s'.params = s.params

/-- R172, R174, R177: what a command that ends leaves does not depend on what the environment did meanwhile, but for
`SR`. -/
def Obligations.OutcomeDoesNotDependOnTheEnvironment : Prop :=
  ∀ (i : Instr) (s t u : State) (ts us : List Turn), s.seq = .idle → NoReset ts → NoReset us →
    exec i (s.setTurns ts) = .next t → exec i (s.setTurns us) = .next u → t.seq = .idle → u.seq = .idle →
    t = (u.setSr t.sr).setTurns t.turns

/-- R58, R69: a command changes no register of the map but those it may, no peripheral's word and no selector unless it
may write `PCR`, and nothing the host holds; whether it ends, hangs or is held. -/
def Obligations.CommandsChangeOnlyTheirRegisters : Prop :=
  ∀ (i : Instr) (s t : State), NoReset s.turns → exec i s = .next t →
    (∀ r, ¬ mayChange i r → readReg r t = readReg r s) ∧
    (¬ mayChange i .pcr → t.periph = s.periph ∧ t.pcrSel = s.pcrSel) ∧
    t.params = s.params ∧ t.script = s.script ∧ t.reply = s.reply

/-- R177: a command without a wait always ends, whatever the environment does. That it ends within one step is the model's
choice of what a step is (assumption 4). -/
def Obligations.CommandsWithoutAWaitEnd : Prop :=
  ∀ (i : Instr) (s : State), ¬ CanHang i → s.seq = .idle → operandFault s.params i = none → Unbroken s.turns →
    ∃ t, exec i s = .next t ∧ t.seq = .idle

/-- R67, R177, R193: where the environment never answers, every command that can hang does so where it has to wait: `SEQ`
stays RUN, `FSR` and the memoised word are as they were. That a hang is a step which answers the same state is the model's
reading (assumption 10, DEDUCED). -/
def Obligations.UnansweredCommandsHang : Prop :=
  ∀ (i : Instr) (s : State) (a b c : Byte) (n : Fin 3), s.seq = .idle → Unbroken s.turns → Silent s.turns →
    (i = .swmain ∨ i = .swpll ∨ i = .swslck ∨ i = .setplla ∨ i = .setpres a ∧ a.toNat ≤ 6 ∨
      i = .setmdiv a ∧ a.toNat ≤ 3 ∨ i = .setplladiv2 a ∧ a.toNat ≤ 1 ∧ bitField s.mckr 12 1 ≠ a.setWidth 1 ∨
      (i = .selxslck ∨ i = .selislck) ∧ bitField s.mckr 0 2 = 0 ∨
      i = .enpck (BitVec.ofNat 8 n.val) ∧ s.pckrdy n = false ∨
      i = .dispck (BitVec.ofNat 8 n.val) ∧ s.pckrdy n = true ∨
      i = .cfgpck (BitVec.ofNat 8 n.val) b c ∧ b.toNat < 8 ∧ s.pckrdy n = true) →
    ∃ t, exec i s = .next t ∧ Hung t ∧ t.fsr = s.fsr ∧ t.mckcache = s.mckcache ∧ t.script = s.script

/-- R29, R90: during a command the memoised word is kept, set to 0 by a command that invalidates, or filled with the
derived master clock by a query that finds it 0. -/
def Obligations.MemoisedWordWriters : Prop :=
  ∀ (i : Instr) (s t : State), s.seq = .idle → NoReset s.turns → exec i s = .next t →
    t.mckcache = s.mckcache ∨
    (t.mckcache = 0 ∧ mayChange i .mckcache ∧ ¬ mayChange i .result) ∨
    (t.mckcache = mckCompute s ∧ s.mckcache = 0 ∧ (i = .getmck ∨ i = .getcpu ∨ ∃ a, i = .getpclk a))

/-- R47, R196: a raw host write never changes the memoised word. -/
def Obligations.RawWritesKeepTheMemoisedWord : Prop :=
  ∀ (s s' : State) (ts : List Turn) (off width : Nat) (v : Word) (rest : List HostAccess),
    s.seq = .idle ∨ s.seq = .faulted → HostsTurn s ts → s.script = .write off width v :: rest → off ≠ 0 →
    step s = .next s' → s'.mckcache = s.mckcache
end

