-- ==== Sys2Proof/Laws/State.lean ====
section
/-! SUPPORT. One lemma per field per update of the state, true by rfl, so that no proof unfolds a record update. -/

namespace Sys2Proof.Machine

@[simp] theorem State.setCmd_cmd (s : State) (v : Word) : (s.setCmd v).cmd = v := rfl
@[simp] theorem State.setCmd_arg0 (s : State) (v : Word) : (s.setCmd v).arg0 = s.arg0 := rfl
@[simp] theorem State.setCmd_arg1 (s : State) (v : Word) : (s.setCmd v).arg1 = s.arg1 := rfl
@[simp] theorem State.setCmd_result (s : State) (v : Word) : (s.setCmd v).result = s.result := rfl
@[simp] theorem State.setCmd_fsr (s : State) (v : Word) : (s.setCmd v).fsr = s.fsr := rfl
@[simp] theorem State.setCmd_mckcache (s : State) (v : Word) : (s.setCmd v).mckcache = s.mckcache := rfl
@[simp] theorem State.setCmd_sr (s : State) (v : Word) : (s.setCmd v).sr = s.sr := rfl
@[simp] theorem State.setCmd_mckr (s : State) (v : Word) : (s.setCmd v).mckr = s.mckr := rfl
@[simp] theorem State.setCmd_pllar (s : State) (v : Word) : (s.setCmd v).pllar = s.pllar := rfl
@[simp] theorem State.setCmd_cpr (s : State) (v : Word) : (s.setCmd v).cpr = s.cpr := rfl
@[simp] theorem State.setCmd_oscr (s : State) (v : Word) : (s.setCmd v).oscr = s.oscr := rfl
@[simp] theorem State.setCmd_pcrSel (s : State) (v : Word) : (s.setCmd v).pcrSel = s.pcrSel := rfl
@[simp] theorem State.setCmd_periph (s : State) (v : Word) : (s.setCmd v).periph = s.periph := rfl
@[simp] theorem State.setCmd_pckenr (s : State) (v : Word) : (s.setCmd v).pckenr = s.pckenr := rfl
@[simp] theorem State.setCmd_pck (s : State) (v : Word) : (s.setCmd v).pck = s.pck := rfl
@[simp] theorem State.setCmd_seq (s : State) (v : Word) : (s.setCmd v).seq = s.seq := rfl
@[simp] theorem State.setCmd_params (s : State) (v : Word) : (s.setCmd v).params = s.params := rfl
@[simp] theorem State.setCmd_script (s : State) (v : Word) : (s.setCmd v).script = s.script := rfl
@[simp] theorem State.setCmd_turns (s : State) (v : Word) : (s.setCmd v).turns = s.turns := rfl
@[simp] theorem State.setCmd_reply (s : State) (v : Word) : (s.setCmd v).reply = s.reply := rfl

@[simp] theorem State.setArg0_cmd (s : State) (v : Word) : (s.setArg0 v).cmd = s.cmd := rfl
@[simp] theorem State.setArg0_arg0 (s : State) (v : Word) : (s.setArg0 v).arg0 = v := rfl
@[simp] theorem State.setArg0_arg1 (s : State) (v : Word) : (s.setArg0 v).arg1 = s.arg1 := rfl
@[simp] theorem State.setArg0_result (s : State) (v : Word) : (s.setArg0 v).result = s.result := rfl
@[simp] theorem State.setArg0_fsr (s : State) (v : Word) : (s.setArg0 v).fsr = s.fsr := rfl
@[simp] theorem State.setArg0_mckcache (s : State) (v : Word) : (s.setArg0 v).mckcache = s.mckcache := rfl
@[simp] theorem State.setArg0_sr (s : State) (v : Word) : (s.setArg0 v).sr = s.sr := rfl
@[simp] theorem State.setArg0_mckr (s : State) (v : Word) : (s.setArg0 v).mckr = s.mckr := rfl
@[simp] theorem State.setArg0_pllar (s : State) (v : Word) : (s.setArg0 v).pllar = s.pllar := rfl
@[simp] theorem State.setArg0_cpr (s : State) (v : Word) : (s.setArg0 v).cpr = s.cpr := rfl
@[simp] theorem State.setArg0_oscr (s : State) (v : Word) : (s.setArg0 v).oscr = s.oscr := rfl
@[simp] theorem State.setArg0_pcrSel (s : State) (v : Word) : (s.setArg0 v).pcrSel = s.pcrSel := rfl
@[simp] theorem State.setArg0_periph (s : State) (v : Word) : (s.setArg0 v).periph = s.periph := rfl
@[simp] theorem State.setArg0_pckenr (s : State) (v : Word) : (s.setArg0 v).pckenr = s.pckenr := rfl
@[simp] theorem State.setArg0_pck (s : State) (v : Word) : (s.setArg0 v).pck = s.pck := rfl
@[simp] theorem State.setArg0_seq (s : State) (v : Word) : (s.setArg0 v).seq = s.seq := rfl
@[simp] theorem State.setArg0_params (s : State) (v : Word) : (s.setArg0 v).params = s.params := rfl
@[simp] theorem State.setArg0_script (s : State) (v : Word) : (s.setArg0 v).script = s.script := rfl
@[simp] theorem State.setArg0_turns (s : State) (v : Word) : (s.setArg0 v).turns = s.turns := rfl
@[simp] theorem State.setArg0_reply (s : State) (v : Word) : (s.setArg0 v).reply = s.reply := rfl

@[simp] theorem State.setArg1_cmd (s : State) (v : Word) : (s.setArg1 v).cmd = s.cmd := rfl
@[simp] theorem State.setArg1_arg0 (s : State) (v : Word) : (s.setArg1 v).arg0 = s.arg0 := rfl
@[simp] theorem State.setArg1_arg1 (s : State) (v : Word) : (s.setArg1 v).arg1 = v := rfl
@[simp] theorem State.setArg1_result (s : State) (v : Word) : (s.setArg1 v).result = s.result := rfl
@[simp] theorem State.setArg1_fsr (s : State) (v : Word) : (s.setArg1 v).fsr = s.fsr := rfl
@[simp] theorem State.setArg1_mckcache (s : State) (v : Word) : (s.setArg1 v).mckcache = s.mckcache := rfl
@[simp] theorem State.setArg1_sr (s : State) (v : Word) : (s.setArg1 v).sr = s.sr := rfl
@[simp] theorem State.setArg1_mckr (s : State) (v : Word) : (s.setArg1 v).mckr = s.mckr := rfl
@[simp] theorem State.setArg1_pllar (s : State) (v : Word) : (s.setArg1 v).pllar = s.pllar := rfl
@[simp] theorem State.setArg1_cpr (s : State) (v : Word) : (s.setArg1 v).cpr = s.cpr := rfl
@[simp] theorem State.setArg1_oscr (s : State) (v : Word) : (s.setArg1 v).oscr = s.oscr := rfl
@[simp] theorem State.setArg1_pcrSel (s : State) (v : Word) : (s.setArg1 v).pcrSel = s.pcrSel := rfl
@[simp] theorem State.setArg1_periph (s : State) (v : Word) : (s.setArg1 v).periph = s.periph := rfl
@[simp] theorem State.setArg1_pckenr (s : State) (v : Word) : (s.setArg1 v).pckenr = s.pckenr := rfl
@[simp] theorem State.setArg1_pck (s : State) (v : Word) : (s.setArg1 v).pck = s.pck := rfl
@[simp] theorem State.setArg1_seq (s : State) (v : Word) : (s.setArg1 v).seq = s.seq := rfl
@[simp] theorem State.setArg1_params (s : State) (v : Word) : (s.setArg1 v).params = s.params := rfl
@[simp] theorem State.setArg1_script (s : State) (v : Word) : (s.setArg1 v).script = s.script := rfl
@[simp] theorem State.setArg1_turns (s : State) (v : Word) : (s.setArg1 v).turns = s.turns := rfl
@[simp] theorem State.setArg1_reply (s : State) (v : Word) : (s.setArg1 v).reply = s.reply := rfl

@[simp] theorem State.setResult_cmd (s : State) (v : Word) : (s.setResult v).cmd = s.cmd := rfl
@[simp] theorem State.setResult_arg0 (s : State) (v : Word) : (s.setResult v).arg0 = s.arg0 := rfl
@[simp] theorem State.setResult_arg1 (s : State) (v : Word) : (s.setResult v).arg1 = s.arg1 := rfl
@[simp] theorem State.setResult_result (s : State) (v : Word) : (s.setResult v).result = v := rfl
@[simp] theorem State.setResult_fsr (s : State) (v : Word) : (s.setResult v).fsr = s.fsr := rfl
@[simp] theorem State.setResult_mckcache (s : State) (v : Word) : (s.setResult v).mckcache = s.mckcache := rfl
@[simp] theorem State.setResult_sr (s : State) (v : Word) : (s.setResult v).sr = s.sr := rfl
@[simp] theorem State.setResult_mckr (s : State) (v : Word) : (s.setResult v).mckr = s.mckr := rfl
@[simp] theorem State.setResult_pllar (s : State) (v : Word) : (s.setResult v).pllar = s.pllar := rfl
@[simp] theorem State.setResult_cpr (s : State) (v : Word) : (s.setResult v).cpr = s.cpr := rfl
@[simp] theorem State.setResult_oscr (s : State) (v : Word) : (s.setResult v).oscr = s.oscr := rfl
@[simp] theorem State.setResult_pcrSel (s : State) (v : Word) : (s.setResult v).pcrSel = s.pcrSel := rfl
@[simp] theorem State.setResult_periph (s : State) (v : Word) : (s.setResult v).periph = s.periph := rfl
@[simp] theorem State.setResult_pckenr (s : State) (v : Word) : (s.setResult v).pckenr = s.pckenr := rfl
@[simp] theorem State.setResult_pck (s : State) (v : Word) : (s.setResult v).pck = s.pck := rfl
@[simp] theorem State.setResult_seq (s : State) (v : Word) : (s.setResult v).seq = s.seq := rfl
@[simp] theorem State.setResult_params (s : State) (v : Word) : (s.setResult v).params = s.params := rfl
@[simp] theorem State.setResult_script (s : State) (v : Word) : (s.setResult v).script = s.script := rfl
@[simp] theorem State.setResult_turns (s : State) (v : Word) : (s.setResult v).turns = s.turns := rfl
@[simp] theorem State.setResult_reply (s : State) (v : Word) : (s.setResult v).reply = s.reply := rfl

@[simp] theorem State.setFsr_cmd (s : State) (v : Word) : (s.setFsr v).cmd = s.cmd := rfl
@[simp] theorem State.setFsr_arg0 (s : State) (v : Word) : (s.setFsr v).arg0 = s.arg0 := rfl
@[simp] theorem State.setFsr_arg1 (s : State) (v : Word) : (s.setFsr v).arg1 = s.arg1 := rfl
@[simp] theorem State.setFsr_result (s : State) (v : Word) : (s.setFsr v).result = s.result := rfl
@[simp] theorem State.setFsr_fsr (s : State) (v : Word) : (s.setFsr v).fsr = v := rfl
@[simp] theorem State.setFsr_mckcache (s : State) (v : Word) : (s.setFsr v).mckcache = s.mckcache := rfl
@[simp] theorem State.setFsr_sr (s : State) (v : Word) : (s.setFsr v).sr = s.sr := rfl
@[simp] theorem State.setFsr_mckr (s : State) (v : Word) : (s.setFsr v).mckr = s.mckr := rfl
@[simp] theorem State.setFsr_pllar (s : State) (v : Word) : (s.setFsr v).pllar = s.pllar := rfl
@[simp] theorem State.setFsr_cpr (s : State) (v : Word) : (s.setFsr v).cpr = s.cpr := rfl
@[simp] theorem State.setFsr_oscr (s : State) (v : Word) : (s.setFsr v).oscr = s.oscr := rfl
@[simp] theorem State.setFsr_pcrSel (s : State) (v : Word) : (s.setFsr v).pcrSel = s.pcrSel := rfl
@[simp] theorem State.setFsr_periph (s : State) (v : Word) : (s.setFsr v).periph = s.periph := rfl
@[simp] theorem State.setFsr_pckenr (s : State) (v : Word) : (s.setFsr v).pckenr = s.pckenr := rfl
@[simp] theorem State.setFsr_pck (s : State) (v : Word) : (s.setFsr v).pck = s.pck := rfl
@[simp] theorem State.setFsr_seq (s : State) (v : Word) : (s.setFsr v).seq = s.seq := rfl
@[simp] theorem State.setFsr_params (s : State) (v : Word) : (s.setFsr v).params = s.params := rfl
@[simp] theorem State.setFsr_script (s : State) (v : Word) : (s.setFsr v).script = s.script := rfl
@[simp] theorem State.setFsr_turns (s : State) (v : Word) : (s.setFsr v).turns = s.turns := rfl
@[simp] theorem State.setFsr_reply (s : State) (v : Word) : (s.setFsr v).reply = s.reply := rfl

@[simp] theorem State.setMckcache_cmd (s : State) (v : Word) : (s.setMckcache v).cmd = s.cmd := rfl
@[simp] theorem State.setMckcache_arg0 (s : State) (v : Word) : (s.setMckcache v).arg0 = s.arg0 := rfl
@[simp] theorem State.setMckcache_arg1 (s : State) (v : Word) : (s.setMckcache v).arg1 = s.arg1 := rfl
@[simp] theorem State.setMckcache_result (s : State) (v : Word) : (s.setMckcache v).result = s.result := rfl
@[simp] theorem State.setMckcache_fsr (s : State) (v : Word) : (s.setMckcache v).fsr = s.fsr := rfl
@[simp] theorem State.setMckcache_mckcache (s : State) (v : Word) : (s.setMckcache v).mckcache = v := rfl
@[simp] theorem State.setMckcache_sr (s : State) (v : Word) : (s.setMckcache v).sr = s.sr := rfl
@[simp] theorem State.setMckcache_mckr (s : State) (v : Word) : (s.setMckcache v).mckr = s.mckr := rfl
@[simp] theorem State.setMckcache_pllar (s : State) (v : Word) : (s.setMckcache v).pllar = s.pllar := rfl
@[simp] theorem State.setMckcache_cpr (s : State) (v : Word) : (s.setMckcache v).cpr = s.cpr := rfl
@[simp] theorem State.setMckcache_oscr (s : State) (v : Word) : (s.setMckcache v).oscr = s.oscr := rfl
@[simp] theorem State.setMckcache_pcrSel (s : State) (v : Word) : (s.setMckcache v).pcrSel = s.pcrSel := rfl
@[simp] theorem State.setMckcache_periph (s : State) (v : Word) : (s.setMckcache v).periph = s.periph := rfl
@[simp] theorem State.setMckcache_pckenr (s : State) (v : Word) : (s.setMckcache v).pckenr = s.pckenr := rfl
@[simp] theorem State.setMckcache_pck (s : State) (v : Word) : (s.setMckcache v).pck = s.pck := rfl
@[simp] theorem State.setMckcache_seq (s : State) (v : Word) : (s.setMckcache v).seq = s.seq := rfl
@[simp] theorem State.setMckcache_params (s : State) (v : Word) : (s.setMckcache v).params = s.params := rfl
@[simp] theorem State.setMckcache_script (s : State) (v : Word) : (s.setMckcache v).script = s.script := rfl
@[simp] theorem State.setMckcache_turns (s : State) (v : Word) : (s.setMckcache v).turns = s.turns := rfl
@[simp] theorem State.setMckcache_reply (s : State) (v : Word) : (s.setMckcache v).reply = s.reply := rfl

@[simp] theorem State.setSr_cmd (s : State) (v : Word) : (s.setSr v).cmd = s.cmd := rfl
@[simp] theorem State.setSr_arg0 (s : State) (v : Word) : (s.setSr v).arg0 = s.arg0 := rfl
@[simp] theorem State.setSr_arg1 (s : State) (v : Word) : (s.setSr v).arg1 = s.arg1 := rfl
@[simp] theorem State.setSr_result (s : State) (v : Word) : (s.setSr v).result = s.result := rfl
@[simp] theorem State.setSr_fsr (s : State) (v : Word) : (s.setSr v).fsr = s.fsr := rfl
@[simp] theorem State.setSr_mckcache (s : State) (v : Word) : (s.setSr v).mckcache = s.mckcache := rfl
@[simp] theorem State.setSr_sr (s : State) (v : Word) : (s.setSr v).sr = v := rfl
@[simp] theorem State.setSr_mckr (s : State) (v : Word) : (s.setSr v).mckr = s.mckr := rfl
@[simp] theorem State.setSr_pllar (s : State) (v : Word) : (s.setSr v).pllar = s.pllar := rfl
@[simp] theorem State.setSr_cpr (s : State) (v : Word) : (s.setSr v).cpr = s.cpr := rfl
@[simp] theorem State.setSr_oscr (s : State) (v : Word) : (s.setSr v).oscr = s.oscr := rfl
@[simp] theorem State.setSr_pcrSel (s : State) (v : Word) : (s.setSr v).pcrSel = s.pcrSel := rfl
@[simp] theorem State.setSr_periph (s : State) (v : Word) : (s.setSr v).periph = s.periph := rfl
@[simp] theorem State.setSr_pckenr (s : State) (v : Word) : (s.setSr v).pckenr = s.pckenr := rfl
@[simp] theorem State.setSr_pck (s : State) (v : Word) : (s.setSr v).pck = s.pck := rfl
@[simp] theorem State.setSr_seq (s : State) (v : Word) : (s.setSr v).seq = s.seq := rfl
@[simp] theorem State.setSr_params (s : State) (v : Word) : (s.setSr v).params = s.params := rfl
@[simp] theorem State.setSr_script (s : State) (v : Word) : (s.setSr v).script = s.script := rfl
@[simp] theorem State.setSr_turns (s : State) (v : Word) : (s.setSr v).turns = s.turns := rfl
@[simp] theorem State.setSr_reply (s : State) (v : Word) : (s.setSr v).reply = s.reply := rfl

@[simp] theorem State.setMckr_cmd (s : State) (v : Word) : (s.setMckr v).cmd = s.cmd := rfl
@[simp] theorem State.setMckr_arg0 (s : State) (v : Word) : (s.setMckr v).arg0 = s.arg0 := rfl
@[simp] theorem State.setMckr_arg1 (s : State) (v : Word) : (s.setMckr v).arg1 = s.arg1 := rfl
@[simp] theorem State.setMckr_result (s : State) (v : Word) : (s.setMckr v).result = s.result := rfl
@[simp] theorem State.setMckr_fsr (s : State) (v : Word) : (s.setMckr v).fsr = s.fsr := rfl
@[simp] theorem State.setMckr_mckcache (s : State) (v : Word) : (s.setMckr v).mckcache = s.mckcache := rfl
@[simp] theorem State.setMckr_sr (s : State) (v : Word) : (s.setMckr v).sr = s.sr := rfl
@[simp] theorem State.setMckr_mckr (s : State) (v : Word) : (s.setMckr v).mckr = v := rfl
@[simp] theorem State.setMckr_pllar (s : State) (v : Word) : (s.setMckr v).pllar = s.pllar := rfl
@[simp] theorem State.setMckr_cpr (s : State) (v : Word) : (s.setMckr v).cpr = s.cpr := rfl
@[simp] theorem State.setMckr_oscr (s : State) (v : Word) : (s.setMckr v).oscr = s.oscr := rfl
@[simp] theorem State.setMckr_pcrSel (s : State) (v : Word) : (s.setMckr v).pcrSel = s.pcrSel := rfl
@[simp] theorem State.setMckr_periph (s : State) (v : Word) : (s.setMckr v).periph = s.periph := rfl
@[simp] theorem State.setMckr_pckenr (s : State) (v : Word) : (s.setMckr v).pckenr = s.pckenr := rfl
@[simp] theorem State.setMckr_pck (s : State) (v : Word) : (s.setMckr v).pck = s.pck := rfl
@[simp] theorem State.setMckr_seq (s : State) (v : Word) : (s.setMckr v).seq = s.seq := rfl
@[simp] theorem State.setMckr_params (s : State) (v : Word) : (s.setMckr v).params = s.params := rfl
@[simp] theorem State.setMckr_script (s : State) (v : Word) : (s.setMckr v).script = s.script := rfl
@[simp] theorem State.setMckr_turns (s : State) (v : Word) : (s.setMckr v).turns = s.turns := rfl
@[simp] theorem State.setMckr_reply (s : State) (v : Word) : (s.setMckr v).reply = s.reply := rfl

@[simp] theorem State.setPllar_cmd (s : State) (v : Word) : (s.setPllar v).cmd = s.cmd := rfl
@[simp] theorem State.setPllar_arg0 (s : State) (v : Word) : (s.setPllar v).arg0 = s.arg0 := rfl
@[simp] theorem State.setPllar_arg1 (s : State) (v : Word) : (s.setPllar v).arg1 = s.arg1 := rfl
@[simp] theorem State.setPllar_result (s : State) (v : Word) : (s.setPllar v).result = s.result := rfl
@[simp] theorem State.setPllar_fsr (s : State) (v : Word) : (s.setPllar v).fsr = s.fsr := rfl
@[simp] theorem State.setPllar_mckcache (s : State) (v : Word) : (s.setPllar v).mckcache = s.mckcache := rfl
@[simp] theorem State.setPllar_sr (s : State) (v : Word) : (s.setPllar v).sr = s.sr := rfl
@[simp] theorem State.setPllar_mckr (s : State) (v : Word) : (s.setPllar v).mckr = s.mckr := rfl
@[simp] theorem State.setPllar_pllar (s : State) (v : Word) : (s.setPllar v).pllar = v := rfl
@[simp] theorem State.setPllar_cpr (s : State) (v : Word) : (s.setPllar v).cpr = s.cpr := rfl
@[simp] theorem State.setPllar_oscr (s : State) (v : Word) : (s.setPllar v).oscr = s.oscr := rfl
@[simp] theorem State.setPllar_pcrSel (s : State) (v : Word) : (s.setPllar v).pcrSel = s.pcrSel := rfl
@[simp] theorem State.setPllar_periph (s : State) (v : Word) : (s.setPllar v).periph = s.periph := rfl
@[simp] theorem State.setPllar_pckenr (s : State) (v : Word) : (s.setPllar v).pckenr = s.pckenr := rfl
@[simp] theorem State.setPllar_pck (s : State) (v : Word) : (s.setPllar v).pck = s.pck := rfl
@[simp] theorem State.setPllar_seq (s : State) (v : Word) : (s.setPllar v).seq = s.seq := rfl
@[simp] theorem State.setPllar_params (s : State) (v : Word) : (s.setPllar v).params = s.params := rfl
@[simp] theorem State.setPllar_script (s : State) (v : Word) : (s.setPllar v).script = s.script := rfl
@[simp] theorem State.setPllar_turns (s : State) (v : Word) : (s.setPllar v).turns = s.turns := rfl
@[simp] theorem State.setPllar_reply (s : State) (v : Word) : (s.setPllar v).reply = s.reply := rfl

@[simp] theorem State.setCpr_cmd (s : State) (v : Word) : (s.setCpr v).cmd = s.cmd := rfl
@[simp] theorem State.setCpr_arg0 (s : State) (v : Word) : (s.setCpr v).arg0 = s.arg0 := rfl
@[simp] theorem State.setCpr_arg1 (s : State) (v : Word) : (s.setCpr v).arg1 = s.arg1 := rfl
@[simp] theorem State.setCpr_result (s : State) (v : Word) : (s.setCpr v).result = s.result := rfl
@[simp] theorem State.setCpr_fsr (s : State) (v : Word) : (s.setCpr v).fsr = s.fsr := rfl
@[simp] theorem State.setCpr_mckcache (s : State) (v : Word) : (s.setCpr v).mckcache = s.mckcache := rfl
@[simp] theorem State.setCpr_sr (s : State) (v : Word) : (s.setCpr v).sr = s.sr := rfl
@[simp] theorem State.setCpr_mckr (s : State) (v : Word) : (s.setCpr v).mckr = s.mckr := rfl
@[simp] theorem State.setCpr_pllar (s : State) (v : Word) : (s.setCpr v).pllar = s.pllar := rfl
@[simp] theorem State.setCpr_cpr (s : State) (v : Word) : (s.setCpr v).cpr = v := rfl
@[simp] theorem State.setCpr_oscr (s : State) (v : Word) : (s.setCpr v).oscr = s.oscr := rfl
@[simp] theorem State.setCpr_pcrSel (s : State) (v : Word) : (s.setCpr v).pcrSel = s.pcrSel := rfl
@[simp] theorem State.setCpr_periph (s : State) (v : Word) : (s.setCpr v).periph = s.periph := rfl
@[simp] theorem State.setCpr_pckenr (s : State) (v : Word) : (s.setCpr v).pckenr = s.pckenr := rfl
@[simp] theorem State.setCpr_pck (s : State) (v : Word) : (s.setCpr v).pck = s.pck := rfl
@[simp] theorem State.setCpr_seq (s : State) (v : Word) : (s.setCpr v).seq = s.seq := rfl
@[simp] theorem State.setCpr_params (s : State) (v : Word) : (s.setCpr v).params = s.params := rfl
@[simp] theorem State.setCpr_script (s : State) (v : Word) : (s.setCpr v).script = s.script := rfl
@[simp] theorem State.setCpr_turns (s : State) (v : Word) : (s.setCpr v).turns = s.turns := rfl
@[simp] theorem State.setCpr_reply (s : State) (v : Word) : (s.setCpr v).reply = s.reply := rfl

@[simp] theorem State.setOscr_cmd (s : State) (v : Word) : (s.setOscr v).cmd = s.cmd := rfl
@[simp] theorem State.setOscr_arg0 (s : State) (v : Word) : (s.setOscr v).arg0 = s.arg0 := rfl
@[simp] theorem State.setOscr_arg1 (s : State) (v : Word) : (s.setOscr v).arg1 = s.arg1 := rfl
@[simp] theorem State.setOscr_result (s : State) (v : Word) : (s.setOscr v).result = s.result := rfl
@[simp] theorem State.setOscr_fsr (s : State) (v : Word) : (s.setOscr v).fsr = s.fsr := rfl
@[simp] theorem State.setOscr_mckcache (s : State) (v : Word) : (s.setOscr v).mckcache = s.mckcache := rfl
@[simp] theorem State.setOscr_sr (s : State) (v : Word) : (s.setOscr v).sr = s.sr := rfl
@[simp] theorem State.setOscr_mckr (s : State) (v : Word) : (s.setOscr v).mckr = s.mckr := rfl
@[simp] theorem State.setOscr_pllar (s : State) (v : Word) : (s.setOscr v).pllar = s.pllar := rfl
@[simp] theorem State.setOscr_cpr (s : State) (v : Word) : (s.setOscr v).cpr = s.cpr := rfl
@[simp] theorem State.setOscr_oscr (s : State) (v : Word) : (s.setOscr v).oscr = v := rfl
@[simp] theorem State.setOscr_pcrSel (s : State) (v : Word) : (s.setOscr v).pcrSel = s.pcrSel := rfl
@[simp] theorem State.setOscr_periph (s : State) (v : Word) : (s.setOscr v).periph = s.periph := rfl
@[simp] theorem State.setOscr_pckenr (s : State) (v : Word) : (s.setOscr v).pckenr = s.pckenr := rfl
@[simp] theorem State.setOscr_pck (s : State) (v : Word) : (s.setOscr v).pck = s.pck := rfl
@[simp] theorem State.setOscr_seq (s : State) (v : Word) : (s.setOscr v).seq = s.seq := rfl
@[simp] theorem State.setOscr_params (s : State) (v : Word) : (s.setOscr v).params = s.params := rfl
@[simp] theorem State.setOscr_script (s : State) (v : Word) : (s.setOscr v).script = s.script := rfl
@[simp] theorem State.setOscr_turns (s : State) (v : Word) : (s.setOscr v).turns = s.turns := rfl
@[simp] theorem State.setOscr_reply (s : State) (v : Word) : (s.setOscr v).reply = s.reply := rfl

@[simp] theorem State.setPcrSel_cmd (s : State) (v : BitVec 7) : (s.setPcrSel v).cmd = s.cmd := rfl
@[simp] theorem State.setPcrSel_arg0 (s : State) (v : BitVec 7) : (s.setPcrSel v).arg0 = s.arg0 := rfl
@[simp] theorem State.setPcrSel_arg1 (s : State) (v : BitVec 7) : (s.setPcrSel v).arg1 = s.arg1 := rfl
@[simp] theorem State.setPcrSel_result (s : State) (v : BitVec 7) : (s.setPcrSel v).result = s.result := rfl
@[simp] theorem State.setPcrSel_fsr (s : State) (v : BitVec 7) : (s.setPcrSel v).fsr = s.fsr := rfl
@[simp] theorem State.setPcrSel_mckcache (s : State) (v : BitVec 7) : (s.setPcrSel v).mckcache = s.mckcache := rfl
@[simp] theorem State.setPcrSel_sr (s : State) (v : BitVec 7) : (s.setPcrSel v).sr = s.sr := rfl
@[simp] theorem State.setPcrSel_mckr (s : State) (v : BitVec 7) : (s.setPcrSel v).mckr = s.mckr := rfl
@[simp] theorem State.setPcrSel_pllar (s : State) (v : BitVec 7) : (s.setPcrSel v).pllar = s.pllar := rfl
@[simp] theorem State.setPcrSel_cpr (s : State) (v : BitVec 7) : (s.setPcrSel v).cpr = s.cpr := rfl
@[simp] theorem State.setPcrSel_oscr (s : State) (v : BitVec 7) : (s.setPcrSel v).oscr = s.oscr := rfl
@[simp] theorem State.setPcrSel_pcrSel (s : State) (v : BitVec 7) : (s.setPcrSel v).pcrSel = v := rfl
@[simp] theorem State.setPcrSel_periph (s : State) (v : BitVec 7) : (s.setPcrSel v).periph = s.periph := rfl
@[simp] theorem State.setPcrSel_pckenr (s : State) (v : BitVec 7) : (s.setPcrSel v).pckenr = s.pckenr := rfl
@[simp] theorem State.setPcrSel_pck (s : State) (v : BitVec 7) : (s.setPcrSel v).pck = s.pck := rfl
@[simp] theorem State.setPcrSel_seq (s : State) (v : BitVec 7) : (s.setPcrSel v).seq = s.seq := rfl
@[simp] theorem State.setPcrSel_params (s : State) (v : BitVec 7) : (s.setPcrSel v).params = s.params := rfl
@[simp] theorem State.setPcrSel_script (s : State) (v : BitVec 7) : (s.setPcrSel v).script = s.script := rfl
@[simp] theorem State.setPcrSel_turns (s : State) (v : BitVec 7) : (s.setPcrSel v).turns = s.turns := rfl
@[simp] theorem State.setPcrSel_reply (s : State) (v : BitVec 7) : (s.setPcrSel v).reply = s.reply := rfl

@[simp] theorem State.setPeriph_cmd (s : State) (v : PeriphStore) : (s.setPeriph v).cmd = s.cmd := rfl
@[simp] theorem State.setPeriph_arg0 (s : State) (v : PeriphStore) : (s.setPeriph v).arg0 = s.arg0 := rfl
@[simp] theorem State.setPeriph_arg1 (s : State) (v : PeriphStore) : (s.setPeriph v).arg1 = s.arg1 := rfl
@[simp] theorem State.setPeriph_result (s : State) (v : PeriphStore) : (s.setPeriph v).result = s.result := rfl
@[simp] theorem State.setPeriph_fsr (s : State) (v : PeriphStore) : (s.setPeriph v).fsr = s.fsr := rfl
@[simp] theorem State.setPeriph_mckcache (s : State) (v : PeriphStore) : (s.setPeriph v).mckcache = s.mckcache := rfl
@[simp] theorem State.setPeriph_sr (s : State) (v : PeriphStore) : (s.setPeriph v).sr = s.sr := rfl
@[simp] theorem State.setPeriph_mckr (s : State) (v : PeriphStore) : (s.setPeriph v).mckr = s.mckr := rfl
@[simp] theorem State.setPeriph_pllar (s : State) (v : PeriphStore) : (s.setPeriph v).pllar = s.pllar := rfl
@[simp] theorem State.setPeriph_cpr (s : State) (v : PeriphStore) : (s.setPeriph v).cpr = s.cpr := rfl
@[simp] theorem State.setPeriph_oscr (s : State) (v : PeriphStore) : (s.setPeriph v).oscr = s.oscr := rfl
@[simp] theorem State.setPeriph_pcrSel (s : State) (v : PeriphStore) : (s.setPeriph v).pcrSel = s.pcrSel := rfl
@[simp] theorem State.setPeriph_periph (s : State) (v : PeriphStore) : (s.setPeriph v).periph = v := rfl
@[simp] theorem State.setPeriph_pckenr (s : State) (v : PeriphStore) : (s.setPeriph v).pckenr = s.pckenr := rfl
@[simp] theorem State.setPeriph_pck (s : State) (v : PeriphStore) : (s.setPeriph v).pck = s.pck := rfl
@[simp] theorem State.setPeriph_seq (s : State) (v : PeriphStore) : (s.setPeriph v).seq = s.seq := rfl
@[simp] theorem State.setPeriph_params (s : State) (v : PeriphStore) : (s.setPeriph v).params = s.params := rfl
@[simp] theorem State.setPeriph_script (s : State) (v : PeriphStore) : (s.setPeriph v).script = s.script := rfl
@[simp] theorem State.setPeriph_turns (s : State) (v : PeriphStore) : (s.setPeriph v).turns = s.turns := rfl
@[simp] theorem State.setPeriph_reply (s : State) (v : PeriphStore) : (s.setPeriph v).reply = s.reply := rfl

@[simp] theorem State.setPckenr_cmd (s : State) (v : Word) : (s.setPckenr v).cmd = s.cmd := rfl
@[simp] theorem State.setPckenr_arg0 (s : State) (v : Word) : (s.setPckenr v).arg0 = s.arg0 := rfl
@[simp] theorem State.setPckenr_arg1 (s : State) (v : Word) : (s.setPckenr v).arg1 = s.arg1 := rfl
@[simp] theorem State.setPckenr_result (s : State) (v : Word) : (s.setPckenr v).result = s.result := rfl
@[simp] theorem State.setPckenr_fsr (s : State) (v : Word) : (s.setPckenr v).fsr = s.fsr := rfl
@[simp] theorem State.setPckenr_mckcache (s : State) (v : Word) : (s.setPckenr v).mckcache = s.mckcache := rfl
@[simp] theorem State.setPckenr_sr (s : State) (v : Word) : (s.setPckenr v).sr = s.sr := rfl
@[simp] theorem State.setPckenr_mckr (s : State) (v : Word) : (s.setPckenr v).mckr = s.mckr := rfl
@[simp] theorem State.setPckenr_pllar (s : State) (v : Word) : (s.setPckenr v).pllar = s.pllar := rfl
@[simp] theorem State.setPckenr_cpr (s : State) (v : Word) : (s.setPckenr v).cpr = s.cpr := rfl
@[simp] theorem State.setPckenr_oscr (s : State) (v : Word) : (s.setPckenr v).oscr = s.oscr := rfl
@[simp] theorem State.setPckenr_pcrSel (s : State) (v : Word) : (s.setPckenr v).pcrSel = s.pcrSel := rfl
@[simp] theorem State.setPckenr_periph (s : State) (v : Word) : (s.setPckenr v).periph = s.periph := rfl
@[simp] theorem State.setPckenr_pckenr (s : State) (v : Word) : (s.setPckenr v).pckenr = v := rfl
@[simp] theorem State.setPckenr_pck (s : State) (v : Word) : (s.setPckenr v).pck = s.pck := rfl
@[simp] theorem State.setPckenr_seq (s : State) (v : Word) : (s.setPckenr v).seq = s.seq := rfl
@[simp] theorem State.setPckenr_params (s : State) (v : Word) : (s.setPckenr v).params = s.params := rfl
@[simp] theorem State.setPckenr_script (s : State) (v : Word) : (s.setPckenr v).script = s.script := rfl
@[simp] theorem State.setPckenr_turns (s : State) (v : Word) : (s.setPckenr v).turns = s.turns := rfl
@[simp] theorem State.setPckenr_reply (s : State) (v : Word) : (s.setPckenr v).reply = s.reply := rfl

@[simp] theorem State.setSeq_cmd (s : State) (v : Seq) : (s.setSeq v).cmd = s.cmd := rfl
@[simp] theorem State.setSeq_arg0 (s : State) (v : Seq) : (s.setSeq v).arg0 = s.arg0 := rfl
@[simp] theorem State.setSeq_arg1 (s : State) (v : Seq) : (s.setSeq v).arg1 = s.arg1 := rfl
@[simp] theorem State.setSeq_result (s : State) (v : Seq) : (s.setSeq v).result = s.result := rfl
@[simp] theorem State.setSeq_fsr (s : State) (v : Seq) : (s.setSeq v).fsr = s.fsr := rfl
@[simp] theorem State.setSeq_mckcache (s : State) (v : Seq) : (s.setSeq v).mckcache = s.mckcache := rfl
@[simp] theorem State.setSeq_sr (s : State) (v : Seq) : (s.setSeq v).sr = s.sr := rfl
@[simp] theorem State.setSeq_mckr (s : State) (v : Seq) : (s.setSeq v).mckr = s.mckr := rfl
@[simp] theorem State.setSeq_pllar (s : State) (v : Seq) : (s.setSeq v).pllar = s.pllar := rfl
@[simp] theorem State.setSeq_cpr (s : State) (v : Seq) : (s.setSeq v).cpr = s.cpr := rfl
@[simp] theorem State.setSeq_oscr (s : State) (v : Seq) : (s.setSeq v).oscr = s.oscr := rfl
@[simp] theorem State.setSeq_pcrSel (s : State) (v : Seq) : (s.setSeq v).pcrSel = s.pcrSel := rfl
@[simp] theorem State.setSeq_periph (s : State) (v : Seq) : (s.setSeq v).periph = s.periph := rfl
@[simp] theorem State.setSeq_pckenr (s : State) (v : Seq) : (s.setSeq v).pckenr = s.pckenr := rfl
@[simp] theorem State.setSeq_pck (s : State) (v : Seq) : (s.setSeq v).pck = s.pck := rfl
@[simp] theorem State.setSeq_seq (s : State) (v : Seq) : (s.setSeq v).seq = v := rfl
@[simp] theorem State.setSeq_params (s : State) (v : Seq) : (s.setSeq v).params = s.params := rfl
@[simp] theorem State.setSeq_script (s : State) (v : Seq) : (s.setSeq v).script = s.script := rfl
@[simp] theorem State.setSeq_turns (s : State) (v : Seq) : (s.setSeq v).turns = s.turns := rfl
@[simp] theorem State.setSeq_reply (s : State) (v : Seq) : (s.setSeq v).reply = s.reply := rfl

@[simp] theorem State.setScript_cmd (s : State) (v : List HostAccess) : (s.setScript v).cmd = s.cmd := rfl
@[simp] theorem State.setScript_arg0 (s : State) (v : List HostAccess) : (s.setScript v).arg0 = s.arg0 := rfl
@[simp] theorem State.setScript_arg1 (s : State) (v : List HostAccess) : (s.setScript v).arg1 = s.arg1 := rfl
@[simp] theorem State.setScript_result (s : State) (v : List HostAccess) : (s.setScript v).result = s.result := rfl
@[simp] theorem State.setScript_fsr (s : State) (v : List HostAccess) : (s.setScript v).fsr = s.fsr := rfl
@[simp] theorem State.setScript_mckcache (s : State) (v : List HostAccess) : (s.setScript v).mckcache = s.mckcache := rfl
@[simp] theorem State.setScript_sr (s : State) (v : List HostAccess) : (s.setScript v).sr = s.sr := rfl
@[simp] theorem State.setScript_mckr (s : State) (v : List HostAccess) : (s.setScript v).mckr = s.mckr := rfl
@[simp] theorem State.setScript_pllar (s : State) (v : List HostAccess) : (s.setScript v).pllar = s.pllar := rfl
@[simp] theorem State.setScript_cpr (s : State) (v : List HostAccess) : (s.setScript v).cpr = s.cpr := rfl
@[simp] theorem State.setScript_oscr (s : State) (v : List HostAccess) : (s.setScript v).oscr = s.oscr := rfl
@[simp] theorem State.setScript_pcrSel (s : State) (v : List HostAccess) : (s.setScript v).pcrSel = s.pcrSel := rfl
@[simp] theorem State.setScript_periph (s : State) (v : List HostAccess) : (s.setScript v).periph = s.periph := rfl
@[simp] theorem State.setScript_pckenr (s : State) (v : List HostAccess) : (s.setScript v).pckenr = s.pckenr := rfl
@[simp] theorem State.setScript_pck (s : State) (v : List HostAccess) : (s.setScript v).pck = s.pck := rfl
@[simp] theorem State.setScript_seq (s : State) (v : List HostAccess) : (s.setScript v).seq = s.seq := rfl
@[simp] theorem State.setScript_params (s : State) (v : List HostAccess) : (s.setScript v).params = s.params := rfl
@[simp] theorem State.setScript_script (s : State) (v : List HostAccess) : (s.setScript v).script = v := rfl
@[simp] theorem State.setScript_turns (s : State) (v : List HostAccess) : (s.setScript v).turns = s.turns := rfl
@[simp] theorem State.setScript_reply (s : State) (v : List HostAccess) : (s.setScript v).reply = s.reply := rfl

@[simp] theorem State.setTurns_cmd (s : State) (v : List Turn) : (s.setTurns v).cmd = s.cmd := rfl
@[simp] theorem State.setTurns_arg0 (s : State) (v : List Turn) : (s.setTurns v).arg0 = s.arg0 := rfl
@[simp] theorem State.setTurns_arg1 (s : State) (v : List Turn) : (s.setTurns v).arg1 = s.arg1 := rfl
@[simp] theorem State.setTurns_result (s : State) (v : List Turn) : (s.setTurns v).result = s.result := rfl
@[simp] theorem State.setTurns_fsr (s : State) (v : List Turn) : (s.setTurns v).fsr = s.fsr := rfl
@[simp] theorem State.setTurns_mckcache (s : State) (v : List Turn) : (s.setTurns v).mckcache = s.mckcache := rfl
@[simp] theorem State.setTurns_sr (s : State) (v : List Turn) : (s.setTurns v).sr = s.sr := rfl
@[simp] theorem State.setTurns_mckr (s : State) (v : List Turn) : (s.setTurns v).mckr = s.mckr := rfl
@[simp] theorem State.setTurns_pllar (s : State) (v : List Turn) : (s.setTurns v).pllar = s.pllar := rfl
@[simp] theorem State.setTurns_cpr (s : State) (v : List Turn) : (s.setTurns v).cpr = s.cpr := rfl
@[simp] theorem State.setTurns_oscr (s : State) (v : List Turn) : (s.setTurns v).oscr = s.oscr := rfl
@[simp] theorem State.setTurns_pcrSel (s : State) (v : List Turn) : (s.setTurns v).pcrSel = s.pcrSel := rfl
@[simp] theorem State.setTurns_periph (s : State) (v : List Turn) : (s.setTurns v).periph = s.periph := rfl
@[simp] theorem State.setTurns_pckenr (s : State) (v : List Turn) : (s.setTurns v).pckenr = s.pckenr := rfl
@[simp] theorem State.setTurns_pck (s : State) (v : List Turn) : (s.setTurns v).pck = s.pck := rfl
@[simp] theorem State.setTurns_seq (s : State) (v : List Turn) : (s.setTurns v).seq = s.seq := rfl
@[simp] theorem State.setTurns_params (s : State) (v : List Turn) : (s.setTurns v).params = s.params := rfl
@[simp] theorem State.setTurns_script (s : State) (v : List Turn) : (s.setTurns v).script = s.script := rfl
@[simp] theorem State.setTurns_turns (s : State) (v : List Turn) : (s.setTurns v).turns = v := rfl
@[simp] theorem State.setTurns_reply (s : State) (v : List Turn) : (s.setTurns v).reply = s.reply := rfl

@[simp] theorem State.setReply_cmd (s : State) (v : Option Word) : (s.setReply v).cmd = s.cmd := rfl
@[simp] theorem State.setReply_arg0 (s : State) (v : Option Word) : (s.setReply v).arg0 = s.arg0 := rfl
@[simp] theorem State.setReply_arg1 (s : State) (v : Option Word) : (s.setReply v).arg1 = s.arg1 := rfl
@[simp] theorem State.setReply_result (s : State) (v : Option Word) : (s.setReply v).result = s.result := rfl
@[simp] theorem State.setReply_fsr (s : State) (v : Option Word) : (s.setReply v).fsr = s.fsr := rfl
@[simp] theorem State.setReply_mckcache (s : State) (v : Option Word) : (s.setReply v).mckcache = s.mckcache := rfl
@[simp] theorem State.setReply_sr (s : State) (v : Option Word) : (s.setReply v).sr = s.sr := rfl
@[simp] theorem State.setReply_mckr (s : State) (v : Option Word) : (s.setReply v).mckr = s.mckr := rfl
@[simp] theorem State.setReply_pllar (s : State) (v : Option Word) : (s.setReply v).pllar = s.pllar := rfl
@[simp] theorem State.setReply_cpr (s : State) (v : Option Word) : (s.setReply v).cpr = s.cpr := rfl
@[simp] theorem State.setReply_oscr (s : State) (v : Option Word) : (s.setReply v).oscr = s.oscr := rfl
@[simp] theorem State.setReply_pcrSel (s : State) (v : Option Word) : (s.setReply v).pcrSel = s.pcrSel := rfl
@[simp] theorem State.setReply_periph (s : State) (v : Option Word) : (s.setReply v).periph = s.periph := rfl
@[simp] theorem State.setReply_pckenr (s : State) (v : Option Word) : (s.setReply v).pckenr = s.pckenr := rfl
@[simp] theorem State.setReply_pck (s : State) (v : Option Word) : (s.setReply v).pck = s.pck := rfl
@[simp] theorem State.setReply_seq (s : State) (v : Option Word) : (s.setReply v).seq = s.seq := rfl
@[simp] theorem State.setReply_params (s : State) (v : Option Word) : (s.setReply v).params = s.params := rfl
@[simp] theorem State.setReply_script (s : State) (v : Option Word) : (s.setReply v).script = s.script := rfl
@[simp] theorem State.setReply_turns (s : State) (v : Option Word) : (s.setReply v).turns = s.turns := rfl
@[simp] theorem State.setReply_reply (s : State) (v : Option Word) : (s.setReply v).reply = v := rfl

@[simp] theorem State.setPck_cmd (s : State) (n : Fin 3) (v : Word) : (s.setPck n v).cmd = s.cmd := rfl
@[simp] theorem State.setPck_arg0 (s : State) (n : Fin 3) (v : Word) : (s.setPck n v).arg0 = s.arg0 := rfl
@[simp] theorem State.setPck_arg1 (s : State) (n : Fin 3) (v : Word) : (s.setPck n v).arg1 = s.arg1 := rfl
@[simp] theorem State.setPck_result (s : State) (n : Fin 3) (v : Word) : (s.setPck n v).result = s.result := rfl
@[simp] theorem State.setPck_fsr (s : State) (n : Fin 3) (v : Word) : (s.setPck n v).fsr = s.fsr := rfl
@[simp] theorem State.setPck_mckcache (s : State) (n : Fin 3) (v : Word) : (s.setPck n v).mckcache = s.mckcache := rfl
@[simp] theorem State.setPck_sr (s : State) (n : Fin 3) (v : Word) : (s.setPck n v).sr = s.sr := rfl
@[simp] theorem State.setPck_mckr (s : State) (n : Fin 3) (v : Word) : (s.setPck n v).mckr = s.mckr := rfl
@[simp] theorem State.setPck_pllar (s : State) (n : Fin 3) (v : Word) : (s.setPck n v).pllar = s.pllar := rfl
@[simp] theorem State.setPck_cpr (s : State) (n : Fin 3) (v : Word) : (s.setPck n v).cpr = s.cpr := rfl
@[simp] theorem State.setPck_oscr (s : State) (n : Fin 3) (v : Word) : (s.setPck n v).oscr = s.oscr := rfl
@[simp] theorem State.setPck_pcrSel (s : State) (n : Fin 3) (v : Word) : (s.setPck n v).pcrSel = s.pcrSel := rfl
@[simp] theorem State.setPck_periph (s : State) (n : Fin 3) (v : Word) : (s.setPck n v).periph = s.periph := rfl
@[simp] theorem State.setPck_pckenr (s : State) (n : Fin 3) (v : Word) : (s.setPck n v).pckenr = s.pckenr := rfl
@[simp] theorem State.setPck_pck (s : State) (n : Fin 3) (v : Word) : (s.setPck n v).pck = s.pck.set n.val v n.isLt := rfl
@[simp] theorem State.setPck_seq (s : State) (n : Fin 3) (v : Word) : (s.setPck n v).seq = s.seq := rfl
@[simp] theorem State.setPck_params (s : State) (n : Fin 3) (v : Word) : (s.setPck n v).params = s.params := rfl
@[simp] theorem State.setPck_script (s : State) (n : Fin 3) (v : Word) : (s.setPck n v).script = s.script := rfl
@[simp] theorem State.setPck_turns (s : State) (n : Fin 3) (v : Word) : (s.setPck n v).turns = s.turns := rfl
@[simp] theorem State.setPck_reply (s : State) (n : Fin 3) (v : Word) : (s.setPck n v).reply = s.reply := rfl

/-- The unit just written reads as written. -/
@[simp] theorem State.setPck_getElem_self (s : State) (n : Fin 3) (v : Word) : (s.setPck n v).pck[n] = v := by
  simp [State.setPck]

/-- Another unit reads as before (R155). -/
theorem State.setPck_getElem_other (s : State) (n m : Fin 3) (v : Word) (h : m ≠ n) :
    (s.setPck n v).pck[m] = s.pck[m] := by
  have h' : n.val ≠ m.val := fun e => h (Fin.ext e.symm)
  simp [State.setPck, Vector.getElem_set_ne, h']

@[simp] theorem State.setTemps_cmd (s : State) (t : Temps) : (s.setTemps t).cmd = s.cmd := by
  unfold State.setTemps; split <;> rfl
@[simp] theorem State.setTemps_arg0 (s : State) (t : Temps) : (s.setTemps t).arg0 = s.arg0 := by
  unfold State.setTemps; split <;> rfl
@[simp] theorem State.setTemps_arg1 (s : State) (t : Temps) : (s.setTemps t).arg1 = s.arg1 := by
  unfold State.setTemps; split <;> rfl
@[simp] theorem State.setTemps_result (s : State) (t : Temps) : (s.setTemps t).result = s.result := by
  unfold State.setTemps; split <;> rfl
@[simp] theorem State.setTemps_fsr (s : State) (t : Temps) : (s.setTemps t).fsr = s.fsr := by
  unfold State.setTemps; split <;> rfl
@[simp] theorem State.setTemps_mckcache (s : State) (t : Temps) : (s.setTemps t).mckcache = s.mckcache := by
  unfold State.setTemps; split <;> rfl
@[simp] theorem State.setTemps_sr (s : State) (t : Temps) : (s.setTemps t).sr = s.sr := by
  unfold State.setTemps; split <;> rfl
@[simp] theorem State.setTemps_mckr (s : State) (t : Temps) : (s.setTemps t).mckr = s.mckr := by
  unfold State.setTemps; split <;> rfl
@[simp] theorem State.setTemps_pllar (s : State) (t : Temps) : (s.setTemps t).pllar = s.pllar := by
  unfold State.setTemps; split <;> rfl
@[simp] theorem State.setTemps_cpr (s : State) (t : Temps) : (s.setTemps t).cpr = s.cpr := by
  unfold State.setTemps; split <;> rfl
@[simp] theorem State.setTemps_oscr (s : State) (t : Temps) : (s.setTemps t).oscr = s.oscr := by
  unfold State.setTemps; split <;> rfl
@[simp] theorem State.setTemps_pcrSel (s : State) (t : Temps) : (s.setTemps t).pcrSel = s.pcrSel := by
  unfold State.setTemps; split <;> rfl
@[simp] theorem State.setTemps_periph (s : State) (t : Temps) : (s.setTemps t).periph = s.periph := by
  unfold State.setTemps; split <;> rfl
@[simp] theorem State.setTemps_pckenr (s : State) (t : Temps) : (s.setTemps t).pckenr = s.pckenr := by
  unfold State.setTemps; split <;> rfl
@[simp] theorem State.setTemps_pck (s : State) (t : Temps) : (s.setTemps t).pck = s.pck := by
  unfold State.setTemps; split <;> rfl
@[simp] theorem State.setTemps_params (s : State) (t : Temps) : (s.setTemps t).params = s.params := by
  unfold State.setTemps; split <;> rfl
@[simp] theorem State.setTemps_script (s : State) (t : Temps) : (s.setTemps t).script = s.script := by
  unfold State.setTemps; split <;> rfl
@[simp] theorem State.setTemps_turns (s : State) (t : Temps) : (s.setTemps t).turns = s.turns := by
  unfold State.setTemps; split <;> rfl
@[simp] theorem State.setTemps_reply (s : State) (t : Temps) : (s.setTemps t).reply = s.reply := by
  unfold State.setTemps; split <;> rfl

@[simp] theorem State.setIndex_cmd (s : State) (k : Nat) : (s.setIndex k).cmd = s.cmd := by
  unfold State.setIndex; split <;> rfl
@[simp] theorem State.setIndex_arg0 (s : State) (k : Nat) : (s.setIndex k).arg0 = s.arg0 := by
  unfold State.setIndex; split <;> rfl
@[simp] theorem State.setIndex_arg1 (s : State) (k : Nat) : (s.setIndex k).arg1 = s.arg1 := by
  unfold State.setIndex; split <;> rfl
@[simp] theorem State.setIndex_result (s : State) (k : Nat) : (s.setIndex k).result = s.result := by
  unfold State.setIndex; split <;> rfl
@[simp] theorem State.setIndex_fsr (s : State) (k : Nat) : (s.setIndex k).fsr = s.fsr := by
  unfold State.setIndex; split <;> rfl
@[simp] theorem State.setIndex_mckcache (s : State) (k : Nat) : (s.setIndex k).mckcache = s.mckcache := by
  unfold State.setIndex; split <;> rfl
@[simp] theorem State.setIndex_sr (s : State) (k : Nat) : (s.setIndex k).sr = s.sr := by
  unfold State.setIndex; split <;> rfl
@[simp] theorem State.setIndex_mckr (s : State) (k : Nat) : (s.setIndex k).mckr = s.mckr := by
  unfold State.setIndex; split <;> rfl
@[simp] theorem State.setIndex_pllar (s : State) (k : Nat) : (s.setIndex k).pllar = s.pllar := by
  unfold State.setIndex; split <;> rfl
@[simp] theorem State.setIndex_cpr (s : State) (k : Nat) : (s.setIndex k).cpr = s.cpr := by
  unfold State.setIndex; split <;> rfl
@[simp] theorem State.setIndex_oscr (s : State) (k : Nat) : (s.setIndex k).oscr = s.oscr := by
  unfold State.setIndex; split <;> rfl
@[simp] theorem State.setIndex_pcrSel (s : State) (k : Nat) : (s.setIndex k).pcrSel = s.pcrSel := by
  unfold State.setIndex; split <;> rfl
@[simp] theorem State.setIndex_periph (s : State) (k : Nat) : (s.setIndex k).periph = s.periph := by
  unfold State.setIndex; split <;> rfl
@[simp] theorem State.setIndex_pckenr (s : State) (k : Nat) : (s.setIndex k).pckenr = s.pckenr := by
  unfold State.setIndex; split <;> rfl
@[simp] theorem State.setIndex_pck (s : State) (k : Nat) : (s.setIndex k).pck = s.pck := by
  unfold State.setIndex; split <;> rfl
@[simp] theorem State.setIndex_params (s : State) (k : Nat) : (s.setIndex k).params = s.params := by
  unfold State.setIndex; split <;> rfl
@[simp] theorem State.setIndex_script (s : State) (k : Nat) : (s.setIndex k).script = s.script := by
  unfold State.setIndex; split <;> rfl
@[simp] theorem State.setIndex_turns (s : State) (k : Nat) : (s.setIndex k).turns = s.turns := by
  unfold State.setIndex; split <;> rfl
@[simp] theorem State.setIndex_reply (s : State) (k : Nat) : (s.setIndex k).reply = s.reply := by
  unfold State.setIndex; split <;> rfl

/-- While a command runs, replacing the temporaries is a write of `SEQ`. -/
@[simp] theorem State.setTemps_run {s : State} {w : Word} {k : Nat} {t : Temps} (h : s.seq = .run w k t) (t' : Temps) :
    s.setTemps t' = s.setSeq (.run w k t') := by
  simp [State.setTemps, h]

/-- While a command runs, replacing the index is a write of `SEQ`. -/
@[simp] theorem State.setIndex_run {s : State} {w : Word} {k : Nat} {t : Temps} (h : s.seq = .run w k t) (k' : Nat) :
    s.setIndex k' = s.setSeq (.run w k' t) := by
  simp [State.setIndex, h]

/-- While a command runs, the temporaries are those of `SEQ`. -/
@[simp] theorem State.temps_run {s : State} {w : Word} {k : Nat} {t : Temps} (h : s.seq = .run w k t) :
    s.temps = t := by
  simp [State.temps, h]

/-- Two states with equal fields are equal. -/
theorem State.ext_fields {s u : State} (h : s.cmd = u.cmd ∧ s.arg0 = u.arg0 ∧ s.arg1 = u.arg1 ∧ s.result = u.result ∧ s.fsr = u.fsr ∧
    s.mckcache = u.mckcache ∧ s.sr = u.sr ∧ s.mckr = u.mckr ∧ s.pllar = u.pllar ∧ s.cpr = u.cpr ∧
    s.oscr = u.oscr ∧ s.pcrSel = u.pcrSel ∧ s.periph = u.periph ∧
    s.pckenr = u.pckenr ∧ s.pck = u.pck ∧ s.seq = u.seq ∧ s.params = u.params ∧
    s.script = u.script ∧ s.turns = u.turns ∧ s.reply = u.reply) : s = u := by
  cases s
  cases u
  simp_all

end Sys2Proof.Machine
end

