-- ==== Sys2Proof/Laws/Engine.lean ====
section
/-! SUPPORT. What the engine can do: the turns it waits for, one entry of a sequence, a whole command. -/

namespace Sys2Proof.Machine

/-- Listing no turns where none are listed changes nothing. -/
@[simp] theorem State.setTurns_nil_self {s : State} (h : s.turns = []) : s.setTurns [] = s := by
  cases s; simp_all [State.setTurns]

/-! ## The environment and reset -/

/-- Everything an environment step can do (R27): `SR` may change, nothing else does. -/
theorem envStep_eq (e : EnvStep) (s : State) : envStep e s = s.setSr (envStep e s).sr := by
  cases e <;> simp only [envStep] <;> split <;> rfl

@[simp] theorem resetBlock_params (s : State) : (resetBlock s).params = s.params := rfl
@[simp] theorem resetBlock_turns (s : State) : (resetBlock s).turns = s.turns := rfl
@[simp] theorem resetBlock_reply (s : State) : (resetBlock s).reply = s.reply := rfl
@[simp] theorem resetBlock_seq (s : State) : (resetBlock s).seq = .idle := rfl
@[simp] theorem resetBlock_fsr (s : State) : (resetBlock s).fsr = 0 := rfl
@[simp] theorem resetBlock_sr (s : State) : (resetBlock s).sr = 0x00000008 := rfl
@[simp] theorem resetBlock_periph (s : State) : (resetBlock s).periph = [] := rfl

/-! ## Waiting for a turn -/

@[simp] theorem await_nil (c : State → Bool) (s : State) : await c [] s = (c s, s.setTurns []) := rfl

@[simp] theorem await_go (c : State → Bool) (ts : List Turn) (s : State) :
    await c (.go :: ts) s = if c s then (true, s.setTurns ts) else await c ts s := rfl

@[simp] theorem await_env (c : State → Bool) (e : EnvStep) (ts : List Turn) (s : State) :
    await c (.env e :: ts) s = await c ts (envStep e s) := rfl

@[simp] theorem await_reset (c : State → Bool) (ts : List Turn) (s : State) :
    await c (.reset :: ts) s = (false, (resetBlock s).setTurns ts) := rfl

@[simp] theorem await_hold (c : State → Bool) (ts : List Turn) (s : State) :
    await c (.hold :: ts) s = (false, s.setTurns ts) := rfl

/-- Everything the turns before a micro-operation can do. Without a reset among them: `SR` is the environment's, the
turns left over are some of those listed, and every other field is as it was. -/
theorem await_noReset (c : State → Bool) (ts : List Turn) (s : State) (h : Turn.reset ∉ ts) :
    (await c ts s).2 = (s.setSr (await c ts s).2.sr).setTurns (await c ts s).2.turns ∧
      ∀ t ∈ (await c ts s).2.turns, t ∈ ts := by
  induction ts generalizing s with
  | nil => exact ⟨rfl, by simp⟩
  | cons t ts ih =>
    have h' : Turn.reset ∉ ts := fun m => h (by simp [m])
    cases t with
    | go =>
      by_cases hc : c s
      · simp only [await_go, hc, if_true]
        exact ⟨rfl, fun t ht => List.mem_cons_of_mem _ ht⟩
      · simp only [await_go, hc]
        exact ⟨(ih s h').1, fun t ht => List.mem_cons_of_mem _ ((ih s h').2 t ht)⟩
    | env e =>
      simp only [await_env]
      have ih := ih (envStep e s) h'
      refine ⟨?_, fun t ht => List.mem_cons_of_mem _ (ih.2 t ht)⟩
      rw [ih.1]
      generalize (await c ts (envStep e s)).2 = u
      rw [envStep_eq e s]
      rfl
    | reset => simp at h
    | hold => exact ⟨rfl, fun t ht => List.mem_cons_of_mem _ ht⟩

/-- With a reset among the turns the outcome may also be the reset of such a state (R190). -/
theorem await_cases (c : State → Bool) (ts : List Turn) (s : State) :
    (∃ sr ts', (await c ts s).2 = (s.setSr sr).setTurns ts') ∨
      (∃ sr ts', await c ts s = (false, (resetBlock (s.setSr sr)).setTurns ts')) := by
  induction ts generalizing s with
  | nil => exact .inl ⟨s.sr, [], rfl⟩
  | cons t ts ih =>
    cases t with
    | go =>
      by_cases hc : c s
      · exact .inl ⟨s.sr, ts, by simp only [await_go, hc, if_true]; rfl⟩
      · simp only [await_go, hc]
        exact ih s
    | env e =>
      have hu := envStep_eq e s
      simp only [await_env]
      rcases ih (envStep e s) with ⟨sr, ts', h⟩ | ⟨sr, ts', h⟩
      · exact .inl ⟨sr, ts', by rw [h, hu]; rfl⟩
      · exact .inr ⟨sr, ts', by rw [h, hu]; rfl⟩
    | reset => exact .inr ⟨s.sr, ts, rfl⟩
    | hold => exact .inl ⟨s.sr, ts, rfl⟩

/-- The engine moves at once where nothing else is to happen and its micro-operation is always enabled. -/
theorem await_always_unbroken (ts : List Turn) (s : State) (hr : Turn.reset ∉ ts) (hh : Turn.hold ∉ ts) :
    (await (fun _ => true) ts s).1 = true := by
  induction ts generalizing s with
  | nil => rfl
  | cons t ts ih =>
    cases t with
    | go => rfl
    | env e => exact ih _ (fun m => hr (by simp [m])) (fun m => hh (by simp [m]))
    | reset => simp at hr
    | hold => simp at hh

/-- The engine makes a step only where it is enabled (R66, R67). -/
theorem await_true (c : State → Bool) (hc : ∀ s ts, c (s.setTurns ts) = c s) (ts : List Turn) (s : State)
    (h : (await c ts s).1 = true) : c (await c ts s).2 = true := by
  induction ts generalizing s with
  | nil => simpa [hc] using h
  | cons t ts ih =>
    cases t with
    | go =>
      by_cases hs : c s
      · simp [hs, hc]
      · simp only [await_go, hs] at h ⊢
        exact ih s h
    | env e => exact ih _ h
    | reset => simp at h
    | hold => simp at h

/-! ## One entry of a sequence -/

@[simp] theorem run_nil (n k : Nat) (s : State) : run [] n k s = s := rfl

@[simp] theorem run_skip (m : Micro) (ms : List Micro) (n k : Nat) (s : State) :
    run (m :: ms) (n + 1) k s = run ms n (k + 1) s := rfl

@[simp] theorem run_ifThen (c : State → Bool) (n : Nat) (ms : List Micro) (k : Nat) (s : State) :
    run (.ifThen c n :: ms) 0 k s = run ms (if c s then 0 else n) (k + 1) s := rfl

@[simp] theorem run_act (f : State → State) (ms : List Micro) (k : Nat) (s : State) :
    run (.act f :: ms) 0 k s =
      if (await (fun _ => true) s.turns s).1 then
        run ms 0 (k + 1) ((f (await (fun _ => true) s.turns s).2).setIndex (k + 1))
      else (await (fun _ => true) s.turns s).2 := by
  rw [run]; split <;> simp_all

@[simp] theorem run_wait (c : State → Bool) (ms : List Micro) (k : Nat) (s : State) :
    run (.wait c :: ms) 0 k s =
      if (await c s.turns s).1 then run ms 0 (k + 1) ((await c s.turns s).2.setIndex (k + 1))
      else (await c s.turns s).2 := by
  rw [run]; split <;> simp_all

@[simp] theorem run_done (ms : List Micro) (k : Nat) (s : State) :
    run (.done :: ms) 0 k s =
      if (await (fun _ => true) s.turns s).1 then (await (fun _ => true) s.turns s).2.setSeq .idle
      else (await (fun _ => true) s.turns s).2 := by
  rw [run]; split <;> simp_all

/-- The induction over a sequence, once: what the turns keep, every effect of the sequence keeps, and the bookkeeping of
the sequencer keeps, the engine keeps. -/
theorem run_keeps (P : State → Prop) (ms : List Micro)
    (turns : ∀ (c : State → Bool) (s : State), P s → P (await c s.turns s).2)
    (acts : ∀ f, Micro.act f ∈ ms → ∀ (s : State) (k : Nat), P s → P ((f s).setIndex k))
    (index : ∀ (s : State) (k : Nat), P s → P (s.setIndex k))
    (finish : ∀ s : State, P s → P (s.setSeq .idle)) (n k : Nat) (s : State) (h : P s) : P (run ms n k s) := by
  induction ms generalizing n k s with
  | nil => exact h
  | cons m ms ih =>
    have ih := ih fun f hf => acts f (List.mem_cons_of_mem _ hf)
    cases n with
    | succ n => exact ih n (k + 1) s h
    | zero =>
      cases m with
      | ifThen c j => exact ih _ _ s h
      | act f =>
        rw [run_act]
        split
        · exact ih _ _ _ (acts f (by simp) _ _ (turns _ s h))
        · exact turns _ s h
      | wait c =>
        rw [run_wait]
        split
        · exact ih _ _ _ (index _ _ (turns _ s h))
        · exact turns _ s h
      | done =>
        rw [run_done]
        split
        · exact finish _ (turns _ s h)
        · exact turns _ s h

/-! ## A command -/

/-- R64: a command that passes its operand check starts at its first micro-operation. -/
theorem runCommand_idle {i : Instr} {sq : List Micro} {s : State} (h : s.seq = .idle)
    (hc : operandFault s.params i = none) :
    runCommand i sq s = run sq 0 0 ((s.setCmd (encode i)).setSeq (.run (encode i) 0 {})) := by
  simp [runCommand, h, hc]

/-- R64, R70: a command that fails its operand check raises the fault and does nothing else. -/
theorem runCommand_fault {i : Instr} {sq : List Micro} {s : State} {c : Cause} (h : s.seq = .idle)
    (hc : operandFault s.params i = some c) :
    runCommand i sq s = raiseFault c (operandA i) (s.setCmd (encode i)) := by
  simp [runCommand, h, hc]

/-- R66: the command in progress goes on at its next micro-operation. -/
theorem runCommand_run {i : Instr} {sq : List Micro} {s : State} {k : Nat} {t : Temps}
    (h : s.seq = .run (encode i) k t) : runCommand i sq s = run (sq.drop k) 0 k s := by
  simp [runCommand, h]

/-- R50: another command waits at the port. -/
theorem runCommand_other {i : Instr} {sq : List Micro} {s : State} {w : Word} {k : Nat} {t : Temps}
    (h : s.seq = .run w k t) (hw : w ≠ encode i) : runCommand i sq s = s := by
  simp [runCommand, h, hw]

/-- R51: in FAULTED a command is ignored. -/
theorem runCommand_faulted {i : Instr} {sq : List Micro} {s : State} (h : s.seq = .faulted) :
    runCommand i sq s = s := by
  simp [runCommand, h]

end Sys2Proof.Machine
end

