-- ==== Sys2Proof/Laws/Operands.lean ====
section
/-! SUPPORT. What the bit-field operations do, bit by bit: read a field of a written word, and the bits left alone. -/

namespace Sys2Proof.Machine

/-- Every bit of `insertField`: the field's bits are the value's, the others are as they were (R8). -/
theorem insertField_getLsbD (w : Word) (lo : Nat) {n : Nat} (v : BitVec n) (i : Nat) (hi : i < 32) :
    (insertField w lo v).getLsbD i = if lo ≤ i ∧ i < lo + n then v.getLsbD (i - lo) else w.getLsbD i := by
  by_cases h1 : i < lo
  · have h2 : ¬ (lo ≤ i ∧ i < lo + n) := by omega
    simp [insertField, hi, h1, h2]
  · by_cases h4 : i - lo < n
    · have h5 : lo ≤ i ∧ i < lo + n := by omega
      simp [insertField, hi, h1, h4, h5]
    · have h5 : ¬ (lo ≤ i ∧ i < lo + n) := by omega
      have h6 : v.getLsbD (i - lo) = false := BitVec.getLsbD_of_ge v _ (by omega)
      simp [insertField, hi, h1, h4, h5, h6]

/-- Every bit of a field. -/
theorem bitField_getLsbD (w : Word) (lo n i : Nat) (hi : i < n) : (bitField w lo n).getLsbD i = w.getLsbD (lo + i) := by
  rw [bitField, BitVec.getLsbD_extractLsb', decide_eq_true hi, Bool.true_and]

/-- A written field reads as written. -/
theorem bitField_insertField_self (w : Word) (lo n : Nat) (v : BitVec n) (h : lo + n ≤ 32) :
    bitField (insertField w lo v) lo n = v := by
  apply BitVec.eq_of_getLsbD_eq
  intro i hi
  have h1 : lo + i < 32 := by omega
  rw [bitField_getLsbD _ _ _ _ hi, insertField_getLsbD _ _ _ _ h1, if_pos (by omega), Nat.add_sub_cancel_left]

/-- A field that does not meet the written one reads as before. -/
theorem bitField_insertField_other (w : Word) (lo lo' m : Nat) {n : Nat} (v : BitVec n) (h : lo' + m ≤ 32)
    (hd : lo' + m ≤ lo ∨ lo + n ≤ lo') : bitField (insertField w lo v) lo' m = bitField w lo' m := by
  apply BitVec.eq_of_getLsbD_eq
  intro i hi
  have h1 : lo' + i < 32 := by omega
  have h2 : ¬ (lo ≤ lo' + i ∧ lo' + i < lo + n) := by omega
  rw [bitField_getLsbD _ _ _ _ hi, bitField_getLsbD _ _ _ _ hi, insertField_getLsbD _ _ _ _ h1, if_neg h2]

/-- Every bit of `raiseBit`. -/
theorem raiseBit_getLsbD (w : Word) (i j : Nat) (hj : j < 32) :
    (raiseBit w i).getLsbD j = (decide (j = i) || w.getLsbD j) := by
  by_cases h : j = i
  · subst h
    simp [raiseBit, hj]
  · by_cases h2 : j < i
    · simp [raiseBit, hj, h, h2]
    · have h3 : j - i ≠ 0 := by omega
      simp [raiseBit, hj, h, h2, h3]

/-- Every bit of `lowerBit`. -/
theorem lowerBit_getLsbD (w : Word) (i j : Nat) (hj : j < 32) :
    (lowerBit w i).getLsbD j = (!decide (j = i) && w.getLsbD j) := by
  by_cases h : j = i
  · subst h
    simp [lowerBit, hj]
  · by_cases h2 : j < i
    · simp [lowerBit, hj, h, h2]
    · have h3 : j - i ≠ 0 := by omega
      simp [lowerBit, hj, h, h2, h3]

/-- A bit read after it is raised or another one is. -/
theorem bitSet_raiseBit (w : Word) {i j : Nat} (hj : j < 32) : bitSet (raiseBit w i) j = (decide (j = i) || bitSet w j) :=
  raiseBit_getLsbD w i j hj

/-- A bit read after it is lowered or another one is. -/
theorem bitSet_lowerBit (w : Word) {i j : Nat} (hj : j < 32) : bitSet (lowerBit w i) j = (!decide (j = i) && bitSet w j) :=
  lowerBit_getLsbD w i j hj

/-- A bit of a word whose field is replaced. -/
theorem bitSet_insertField (w : Word) (lo : Nat) {n : Nat} (v : BitVec n) {i : Nat} (hi : i < 32) :
    bitSet (insertField w lo v) i = if lo ≤ i ∧ i < lo + n then v.getLsbD (i - lo) else bitSet w i :=
  insertField_getLsbD w lo v i hi

/-- Raising a bit just lowered is raising it. -/
@[simp] theorem raiseBit_lowerBit (w : Word) (i : Nat) : raiseBit (lowerBit w i) i = raiseBit w i := by
  apply BitVec.eq_of_getLsbD_eq
  intro j hj
  rw [raiseBit_getLsbD _ _ _ hj, lowerBit_getLsbD _ _ _ hj, raiseBit_getLsbD _ _ _ hj]
  by_cases h : j = i <;> simp [h]

end Sys2Proof.Machine
end

