-- ==== Sys2Proof/Laws/Store.lean ====
section
/-! SUPPORT. The laws of the per-peripheral store: read after write, and the canonical form kept. -/

namespace Sys2Proof.Machine

/-- An erased id reads as unlisted. -/
theorem storeRead_erase_self (id : Nat) (m : PeriphStore) : storeRead id (storeErase id m) = 0 := by
  induction m with
  | nil => rfl
  | cons e rest ih =>
    obtain ⟨j, v⟩ := e
    by_cases h : j = id
    · simp [storeErase, h, ih]
    · simp [storeErase, storeRead, h, ih]

/-- Erasing an id leaves every other id alone. -/
theorem storeRead_erase_other {id a : Nat} (h : a ≠ id) (m : PeriphStore) :
    storeRead a (storeErase id m) = storeRead a m := by
  induction m with
  | nil => rfl
  | cons e rest ih =>
    obtain ⟨j, v⟩ := e
    by_cases hj : j = id
    · have : ¬ j = a := fun e => h (e ▸ hj)
      simp [storeErase, storeRead, hj, ih, show ¬ id = a from fun e => h e.symm]
    · simp [storeErase, storeRead, hj, ih]

/-- A word inserted where none is listed reads back, and every other id is left alone. -/
theorem storeRead_insert (id : Nat) (v : Word) (m : PeriphStore) (h : ∀ e ∈ m, e.1 ≠ id) (a : Nat) :
    storeRead a (storeInsert id v m) = if a = id then v else storeRead a m := by
  induction m with
  | nil =>
    by_cases ha : a = id
    · simp [storeInsert, storeRead, ha]
    · simp [storeInsert, storeRead, ha, show ¬ id = a from fun e => ha e.symm]
  | cons e rest ih =>
    obtain ⟨j, u⟩ := e
    have hj : j ≠ id := h (j, u) (by simp)
    have ih := ih fun e he => h e (by simp [he])
    by_cases hlt : id < j
    · by_cases ha : a = id
      · simp [storeInsert, storeRead, hlt, ha]
      · simp [storeInsert, storeRead, hlt, ha, show ¬ id = a from fun e => ha e.symm]
    · by_cases hja : j = a
      · subst hja
        simp [storeInsert, storeRead, hlt, hj]
      · simp [storeInsert, storeRead, hlt, hja, ih]

/-- The entries an erasure leaves. -/
theorem mem_storeErase {id : Nat} {m : PeriphStore} {e : Nat × Word} :
    e ∈ storeErase id m ↔ e ∈ m ∧ e.1 ≠ id := by
  induction m with
  | nil => simp [storeErase]
  | cons x rest ih =>
    obtain ⟨j, v⟩ := x
    by_cases h : j = id
    · simp only [storeErase, h, if_true, ih, List.mem_cons]
      constructor
      · rintro ⟨h1, h2⟩
        exact ⟨.inr h1, h2⟩
      · rintro ⟨h1 | h1, h2⟩
        · exact absurd (by rw [h1]) h2
        · exact ⟨h1, h2⟩
    · simp only [storeErase, h, if_false, ih, List.mem_cons]
      constructor
      · rintro (h1 | ⟨h1, h2⟩)
        · exact ⟨.inl h1, by rw [h1]; exact h⟩
        · exact ⟨.inr h1, h2⟩
      · rintro ⟨h1 | h1, h2⟩
        · exact .inl h1
        · exact .inr ⟨h1, h2⟩

/-- The entries an insertion leaves. -/
theorem mem_storeInsert {id : Nat} {v : Word} {m : PeriphStore} {e : Nat × Word} :
    e ∈ storeInsert id v m ↔ e = (id, v) ∨ e ∈ m := by
  induction m with
  | nil => simp [storeInsert]
  | cons x rest ih =>
    obtain ⟨j, u⟩ := x
    by_cases h : id < j
    · simp [storeInsert, h]
    · simp only [storeInsert, h, if_false, List.mem_cons, ih]
      tauto

/-- Read after write (R48): the id written reads as written, every other id as before. No premise on the store. -/
theorem storeRead_write (id a : Nat) (v : Word) (m : PeriphStore) :
    storeRead a (storeWrite id v m) = if a = id then v else storeRead a m := by
  have hfree : ∀ e ∈ storeErase id m, e.1 ≠ id := fun e he => (mem_storeErase.1 he).2
  unfold storeWrite
  by_cases hv : v = 0
  · rw [if_pos hv]
    by_cases ha : a = id
    · rw [if_pos ha, ha, storeRead_erase_self, hv]
    · rw [if_neg ha, storeRead_erase_other ha]
  · rw [if_neg hv, storeRead_insert _ _ _ hfree]
    by_cases ha : a = id
    · rw [if_pos ha, if_pos ha]
    · rw [if_neg ha, if_neg ha, storeRead_erase_other ha]

/-- Every entry of a written store is the one written, which is not 0, or one that was there. -/
theorem mem_storeWrite {id : Nat} {v : Word} {m : PeriphStore} {e : Nat × Word} (h : e ∈ storeWrite id v m) :
    (e = (id, v) ∧ v ≠ 0) ∨ e ∈ m := by
  unfold storeWrite at h
  split at h
  · exact .inr (mem_storeErase.1 h).1
  · rcases mem_storeInsert.1 h with h | h
    · exact .inl ⟨h, by assumption⟩
    · exact .inr (mem_storeErase.1 h).1

theorem storeErase_rising (id : Nat) {m : PeriphStore} (h : m.Pairwise fun x y => x.1 < y.1) :
    (storeErase id m).Pairwise fun x y => x.1 < y.1 := by
  induction m with
  | nil => exact h
  | cons x rest ih =>
    rw [List.pairwise_cons] at h
    obtain ⟨j, v⟩ := x
    by_cases hj : j = id
    · simpa [storeErase, hj] using ih h.2
    · simp only [storeErase, hj, if_false, List.pairwise_cons]
      exact ⟨fun e he => h.1 e (mem_storeErase.1 he).1, ih h.2⟩

theorem storeInsert_rising (id : Nat) (v : Word) {m : PeriphStore} (h : m.Pairwise fun x y => x.1 < y.1)
    (hn : ∀ e ∈ m, e.1 ≠ id) : (storeInsert id v m).Pairwise fun x y => x.1 < y.1 := by
  induction m with
  | nil => simp [storeInsert]
  | cons x rest ih =>
    rw [List.pairwise_cons] at h
    obtain ⟨j, u⟩ := x
    have hj : j ≠ id := hn (j, u) (by simp)
    by_cases hlt : id < j
    · simp only [storeInsert, hlt, if_true, List.pairwise_cons, List.mem_cons]
      refine ⟨?_, h.1, h.2⟩
      rintro e (rfl | he)
      · exact hlt
      · exact Nat.lt_trans hlt (h.1 e he)
    · simp only [storeInsert, hlt, if_false, List.pairwise_cons]
      refine ⟨fun e he => ?_, ih h.2 fun e he => hn e (by simp [he])⟩
      rcases mem_storeInsert.1 he with rfl | he
      · exact Nat.lt_of_le_of_ne (Nat.le_of_not_lt hlt) hj
      · exact h.1 e he

/-- A write keeps the canonical form. -/
theorem storeWrite_wf (id : Nat) (v : Word) {m : PeriphStore} (h : m.wf) : (storeWrite id v m).wf := by
  refine ⟨?_, fun e he => ?_⟩
  · unfold storeWrite
    split
    · exact storeErase_rising id h.1
    · exact storeInsert_rising id v (storeErase_rising id h.1) fun e he => (mem_storeErase.1 he).2
  · rcases mem_storeWrite he with ⟨rfl, hv⟩ | he
    · exact hv
    · exact h.2 e he

/-- An id below every listed one is not listed. -/
theorem storeRead_lt {id : Nat} {m : PeriphStore} (h : ∀ e ∈ m, id < e.1) : storeRead id m = 0 := by
  induction m with
  | nil => rfl
  | cons x rest ih =>
    obtain ⟨j, v⟩ := x
    have hj : j ≠ id := Nat.ne_of_gt (h (j, v) (by simp))
    rw [storeRead, if_neg hj]
    exact ih fun e he => h e (by simp [he])

/-- Stores in canonical form that read alike are equal data. -/
theorem store_ext {m m' : PeriphStore} (h : m.wf) (h' : m'.wf) (hr : ∀ id, storeRead id m = storeRead id m') :
    m = m' := by
  induction m generalizing m' with
  | nil =>
    cases m' with
    | nil => rfl
    | cons x rest =>
      have := hr x.1
      rw [storeRead, storeRead, if_pos rfl] at this
      exact absurd this.symm (h'.2 x (by simp))
  | cons x rest ih =>
    obtain ⟨hx, hrest⟩ := List.pairwise_cons.1 h.1
    have hv : x.2 ≠ 0 := h.2 x (by simp)
    have hself : storeRead x.1 (x :: rest) = x.2 := by rw [storeRead, if_pos rfl]
    cases m' with
    | nil => exact absurd (hself ▸ hr x.1) hv
    | cons y rest' =>
      obtain ⟨hy, hrest'⟩ := List.pairwise_cons.1 h'.1
      have hw : y.2 ≠ 0 := h'.2 y (by simp)
      have hself' : storeRead y.1 (y :: rest') = y.2 := by rw [storeRead, if_pos rfl]
      have hxy : x.1 = y.1 := by
        rcases Nat.lt_trichotomy x.1 y.1 with hlt | heq | hgt
        · refine absurd ?_ hv
          rw [← hself, hr x.1]
          refine storeRead_lt fun e he => ?_
          rcases List.mem_cons.1 he with rfl | he
          · exact hlt
          · exact Nat.lt_trans hlt (hy e he)
        · exact heq
        · refine absurd ?_ hw
          rw [← hself', ← hr y.1]
          refine storeRead_lt fun e he => ?_
          rcases List.mem_cons.1 he with rfl | he
          · exact hgt
          · exact Nat.lt_trans hgt (hx e he)
      have heq : x = y := by
        refine Prod.ext hxy ?_
        rw [← hself, ← hself', hr x.1, hxy]
      subst heq
      refine congrArg (x :: ·) (ih ⟨hrest, fun e he => h.2 e (by simp [he])⟩
        ⟨hrest', fun e he => h'.2 e (by simp [he])⟩ fun id => ?_)
      by_cases hid : x.1 = id
      · subst hid
        rw [storeRead_lt hx, storeRead_lt hy]
      · have := hr id
        rwa [storeRead, storeRead, if_neg hid, if_neg hid] at this

/-- The store after reset is in canonical form. -/
theorem reset_periph_wf : State.reset.periph.wf := by decide

/-- A word that is in the store is read at its id. -/
theorem storeRead_mem {m : PeriphStore} (h : m.wf) {e : Nat × Word} (he : e ∈ m) : storeRead e.1 m = e.2 := by
  have hp := h.1
  clear h
  induction m with
  | nil => simp at he
  | cons d m ih =>
    rw [List.pairwise_cons] at hp
    rcases List.mem_cons.1 he with rfl | he
    · simp [storeRead]
    · rw [storeRead, if_neg (Nat.ne_of_lt (hp.1 e he)), ih he hp.2]

end Sys2Proof.Machine
end

