-- ==== Sys2Proof/Laws/Ops.lean ====
section
/-! SUPPORT. What the shared operations do: the status bits, register writes and reads, the PCR window, taking a fault. -/

namespace Sys2Proof.Machine

/-! ## Status bits (R24 to R27) -/

@[simp] theorem mckrdyBit_lt : mckrdyBit < 32 := by decide
@[simp] theorem lockaBit_lt : lockaBit < 32 := by decide
@[simp] theorem pckrdyBit_lt (n : Fin 3) : pckrdyBit n < 32 := by unfold pckrdyBit; omega
@[simp] theorem unit_lt (n : Fin 3) : n.val < 32 := by omega

/-- A bit just lowered reads 0. -/
@[simp] theorem lowerBit_self (w : Word) {i : Nat} (h : i < 32) : bitSet (lowerBit w i) i = false := by
  simp [bitSet_lowerBit _ h]

/-- A bit just raised reads 1. -/
@[simp] theorem raiseBit_self (w : Word) {i : Nat} (h : i < 32) : bitSet (raiseBit w i) i = true := by
  simp [bitSet_raiseBit _ h]

/-- Any other bit is left alone. -/
theorem lowerBit_other (w : Word) {i j : Nat} (h : j < 32) (hij : j ≠ i) : bitSet (lowerBit w i) j = bitSet w j := by
  simp [bitSet_lowerBit _ h, hij]

/-- Any other bit is left alone. -/
theorem raiseBit_other (w : Word) {i j : Nat} (h : j < 32) (hij : j ≠ i) : bitSet (raiseBit w i) j = bitSet w j := by
  simp [bitSet_raiseBit _ h, hij]

/-- The three status bits stand at different places. -/
theorem status_places (n m : Fin 3) :
    mckrdyBit ≠ lockaBit ∧ mckrdyBit ≠ pckrdyBit n ∧ lockaBit ≠ pckrdyBit n ∧ (n ≠ m → pckrdyBit n ≠ pckrdyBit m) := by
  revert n m; decide

/-- `EnvMckReady` raises a low `MCKRDY` and nothing else. -/
theorem envStep_mckReady {s : State} (h : s.mckrdy = false) :
    envStep .mckReady s = s.setSr (raiseBit s.sr mckrdyBit) := by
  simp [envStep, h]

/-- `EnvLock` raises a low `LOCKA` and nothing else. -/
theorem envStep_lock {s : State} (h : s.locka = false) : envStep .lock s = s.setSr (raiseBit s.sr lockaBit) := by
  simp [envStep, h]

/-- `EnvPckUp(n)` raises a low `PCKRDY[n]` of an enabled unit and nothing else. -/
theorem envStep_pckUp {s : State} {n : Fin 3} (h : s.pckrdy n = false) (he : s.pcken n = true) :
    envStep (.pckUp n) s = s.setSr (raiseBit s.sr (pckrdyBit n)) := by
  simp [envStep, h, he]

/-- `EnvPckDown(n)` lowers a high `PCKRDY[n]` of a disabled unit and nothing else. -/
theorem envStep_pckDown {s : State} {n : Fin 3} (h : s.pckrdy n = true) (he : s.pcken n = false) :
    envStep (.pckDown n) s = s.setSr (lowerBit s.sr (pckrdyBit n)) := by
  simp [envStep, h, he]

/-! ## Register writes (R47, R48) -/

@[simp] theorem writeReg_cmd (v : Word) (s : State) : writeReg .cmd v s = s.setCmd v := rfl
@[simp] theorem writeReg_arg0 (v : Word) (s : State) : writeReg .arg0 v s = s.setArg0 v := rfl
@[simp] theorem writeReg_arg1 (v : Word) (s : State) : writeReg .arg1 v s = s.setArg1 v := rfl
@[simp] theorem writeReg_result (v : Word) (s : State) : writeReg .result v s = s := rfl
@[simp] theorem writeReg_fsr (v : Word) (s : State) : writeReg .fsr v s = s := rfl
@[simp] theorem writeReg_mckcache (v : Word) (s : State) : writeReg .mckcache v s = s := rfl
@[simp] theorem writeReg_sr (v : Word) (s : State) : writeReg .sr v s = s := rfl
@[simp] theorem writeReg_reserved (v : Word) (s : State) : writeReg .reserved v s = s := rfl
@[simp] theorem writeReg_mckr (v : Word) (s : State) :
    writeReg .mckr v s = (s.setMckr v).setSr (lowerBit s.sr mckrdyBit) := rfl
@[simp] theorem writeReg_pllar (v : Word) (s : State) :
    writeReg .pllar v s = (s.setPllar v).setSr (lowerBit s.sr lockaBit) := rfl
@[simp] theorem writeReg_cpr (v : Word) (s : State) : writeReg .cpr v s = s.setCpr v := rfl
@[simp] theorem writeReg_oscr (v : Word) (s : State) : writeReg .oscr v s = s.setOscr v := rfl
@[simp] theorem writeReg_pcr (v : Word) (s : State) : writeReg .pcr v s = pcrWrite v s := rfl
@[simp] theorem writeReg_pckenr (v : Word) (s : State) : writeReg .pckenr v s = s.setPckenr v := rfl
@[simp] theorem writeReg_pck (n : Fin 3) (v : Word) (s : State) : writeReg (.pck n) v s = s.setPck n v := rfl

/-- Everything a write of `PCR` can do (R48). -/
theorem pcrWrite_eq (v : Word) (s : State) :
    pcrWrite v s = (s.setPcrSel (pcrPid v)).setPeriph
      (if pcrCmd v && validId s.params (pcrPid v).toNat then
        storeWrite (pcrPid v).toNat (v &&& cfgMask) s.periph else s.periph) := by
  unfold pcrWrite; split <;> rfl

/-- A write without the commit bit only selects (R48). -/
theorem pcrWrite_select {v : Word} (h : pcrCmd v = false) (s : State) : pcrWrite v s = s.setPcrSel (pcrPid v) := by
  simp [pcrWrite, h]

/-- A write with the commit bit and a valid ID selects and stores (R48). -/
theorem pcrWrite_commit {v : Word} {s : State} (h : pcrCmd v = true)
    (hv : validId s.params (pcrPid v).toNat = true) :
    pcrWrite v s =
      (s.setPcrSel (pcrPid v)).setPeriph (storeWrite (pcrPid v).toNat (v &&& cfgMask) s.periph) := by
  simp [pcrWrite, h, hv]

/-- A read of the window whose selector is valid (R48). -/
theorem pcrRead_valid {s : State} (h : validId s.params s.pcrSel.toNat = true) :
    pcrRead s = s.pcrSel.setWidth 32 ||| storeRead s.pcrSel.toNat s.periph := by
  simp [pcrRead, h]

/-- What a write of the window leaves alone. -/
theorem pcrWrite_frame (v : Word) (s : State) :
    pcrWrite v s = (s.setPcrSel (pcrWrite v s).pcrSel).setPeriph (pcrWrite v s).periph := by
  rw [pcrWrite_eq]; rfl

/-! ## Valid IDs (R130) -/

/-- A valid ID is one `PCR.PID` can hold. -/
theorem validId_lt {p : Params} {id : Nat} (h : validId p id = true) : 2 ≤ id ∧ id < p.nPeriph ∧ id < 128 := by
  have hp : p.nPeriph ≤ 128 := by
    have := p.extraPeriph.isLt
    unfold Params.nPeriph
    omega
  simp only [validId, Bool.and_eq_true, decide_eq_true_eq] at h
  exact ⟨h.1, h.2, Nat.lt_of_lt_of_le h.2 hp⟩

/-! ## Taking a fault (R173) -/

/-- Everything a fault writes. -/
theorem raiseFault_eq (c : Cause) (info : Byte) (s : State) :
    raiseFault c info s = (s.setFsr (faultStatus s.fsr c info)).setSeq .faulted := rfl

/-- The fields of `FSR` after a fault from a clear one (R30, R173). -/
theorem faultStatus_fields (c : Cause) (info : Byte) :
    bitSet (faultStatus 0 c info) 0 = true ∧ bitField (faultStatus 0 c info) 8 4 = causeCode c ∧
      bitField (faultStatus 0 c info) 16 8 = info := by
  refine ⟨?_, ?_, ?_⟩
  · rw [faultStatus, bitSet_insertField _ _ _ (by omega), if_neg (by omega),
      bitSet_insertField _ _ _ (by omega), if_neg (by omega), bitSet_insertField _ _ _ (by omega)]
    rfl
  · rw [faultStatus, bitField_insertField_other _ _ _ _ _ (by omega) (by omega),
      bitField_insertField_self _ _ _ _ (by omega)]
  · rw [faultStatus, bitField_insertField_self _ _ _ _ (by omega)]

end Sys2Proof.Machine
end

