-- ==== Sys2Proof/Laws/Commands.lean ====
section
/-! SUPPORT. Every command is a run of the engine over a sequence, and every effect of the sequence is one of five. -/

namespace Sys2Proof.Machine

/-- What one micro-operation of command `i` can do to a state. -/
inductive Effect (i : Instr) (s : State) : State → Prop where
  /-- It writes a register that the command may change. -/
  | write (r : Reg) (v : Word) (t : Temps) (may : mayChange i r) (notCmd : r ≠ .cmd) :
      Effect i s (writeReg r v (s.setTemps t))
  /-- It puts a value into `RESULT`. -/
  | result (v : Word) (may : mayChange i .result) : Effect i s (s.setResult v)
  /-- It forgets the memoised word. -/
  | forget (may : mayChange i .mckcache) (mutator : ¬ mayChange i .result) : Effect i s (s.setMckcache 0)
  /-- It fills the memoised word. -/
  | fill (query : i = .getmck ∨ i = .getcpu ∨ ∃ a, i = .getpclk a) : Effect i s (s.setMckcache (mckCompute s))
  /-- It changes the temporaries. -/
  | temps (t : Temps) : Effect i s (s.setTemps t)

/-- Putting back the temporaries that are there changes nothing. -/
@[simp] theorem State.setTemps_self (s : State) : s.setTemps s.temps = s := by
  unfold State.setTemps State.temps
  split
  · cases s
    simp_all [State.setSeq]
  · rfl
  · rfl

/-- A register write as an effect. -/
theorem Effect.wr {i : Instr} {s : State} (r : Reg) (v : Word) (may : mayChange i r) (notCmd : r ≠ .cmd) :
    Effect i s (writeReg r v s) := by
  have h := Effect.write (i := i) (s := s) r v s.temps may notCmd
  rwa [State.setTemps_self] at h

/-- Every effect of the sequence is one of those `Effect` lists. -/
def EffectsOf (i : Instr) (ms : List Micro) : Prop := ∀ f, Micro.act f ∈ ms → ∀ s, Effect i s (f s)

theorem EffectsOf.nil (i : Instr) : EffectsOf i [] := fun _ h => by simp at h

theorem EffectsOf.cons_act {i : Instr} {f : State → State} {ms : List Micro} (h : ∀ s, Effect i s (f s))
    (hs : EffectsOf i ms) : EffectsOf i (.act f :: ms) := fun g hg => by
  rcases List.mem_cons.1 hg with e | hg
  · obtain rfl := Micro.act.inj e
    exact h
  · exact hs g hg

theorem EffectsOf.cons_wait {i : Instr} {c : State → Bool} {ms : List Micro} (hs : EffectsOf i ms) :
    EffectsOf i (.wait c :: ms) := fun g hg => hs g (by simpa using hg)

theorem EffectsOf.cons_ifThen {i : Instr} {c : State → Bool} {n : Nat} {ms : List Micro} (hs : EffectsOf i ms) :
    EffectsOf i (.ifThen c n :: ms) := fun g hg => hs g (by simpa using hg)

theorem EffectsOf.cons_done {i : Instr} {ms : List Micro} (hs : EffectsOf i ms) : EffectsOf i (.done :: ms) :=
  fun g hg => hs g (by simpa using hg)

theorem EffectsOf.append {i : Instr} {ms ns : List Micro} (h : EffectsOf i ms) (h' : EffectsOf i ns) :
    EffectsOf i (ms ++ ns) := fun f hf => (List.mem_append.1 hf).elim (h f) (h' f)

theorem EffectsOf.drop {i : Instr} {ms : List Micro} (h : EffectsOf i ms) (k : Nat) : EffectsOf i (ms.drop k) :=
  fun f hf => h f (List.mem_of_mem_drop hf)

theorem EffectsOf.changeMckr {i : Instr} (v : State → Word) (h : mayChange i .mckr) (h' : mayChange i .mckcache)
    (hr : ¬ mayChange i .result) : EffectsOf i (changeMckr v) :=
  .cons_act (fun s => .wr .mckr (v s) h (by simp)) (.cons_wait (.cons_act (fun _ => .forget h' hr) (.nil i)))

theorem EffectsOf.settle (i : Instr) (p : Params) : EffectsOf i (settle p) := fun f hf => by
  obtain rfl := Micro.act.inj (List.eq_of_mem_replicate hf)
  exact fun s => .temps _

theorem EffectsOf.switchSlowOscillator {i : Instr} (p : Params) (sel : BitVec 1) (hm : mayChange i .mckr)
    (ho : mayChange i .oscr) (hc : mayChange i .mckcache) (hr : ¬ mayChange i .result) :
    EffectsOf i (switchSlowOscillator p sel) := by
  have one : EffectsOf i
      [.ifThen (fun s => mckrCss s.mckr == 0) 3, microLeaveSlow, .wait State.mckrdy, microInval,
       microWr .oscr fun s => oscrWithSlcksel s.oscr sel] :=
    .cons_ifThen (.cons_act (fun s => .write .mckr _ _ hm (by simp)) (.cons_wait (.cons_act (fun _ => .forget hc hr)
      (.cons_act (fun s => .wr .oscr _ ho (by simp)) (.nil i)))))
  have two : EffectsOf i [microInval, .done] := .cons_act (fun _ => .forget hc hr) (.cons_done (.nil i))
  exact .append (.append (.append one (.settle i p)) (.cons_ifThen (.changeMckr _ hm hc hr))) two

theorem EffectsOf.callGetmck {i : Instr} {dest : Micro} (hd : EffectsOf i [dest])
    (h : i = .getmck ∨ i = .getcpu ∨ ∃ a, i = .getpclk a) : EffectsOf i (callGetmck dest) :=
  .cons_ifThen (.cons_act (fun _ => .fill h) hd)

theorem EffectsOf.keepMck (i : Instr) : EffectsOf i [microKeepMck] := .cons_act (fun _ => .temps _) (.nil i)

theorem EffectsOf.resDone {i : Instr} (v : State → Word) (h : mayChange i .result) : EffectsOf i [microRes v, .done] :=
  .cons_act (fun s => .result (v s) h) (.cons_done (.nil i))

theorem EffectsOf.readModifyWrite {i : Instr} (id : Word) (v : State → Word) (h : mayChange i .pcr) :
    EffectsOf i [microSelect id, microRd .pcr, microWr .pcr v, .done] :=
  .cons_act (fun _ => .wr .pcr _ h (by simp)) (.cons_act (fun _ => .temps _)
    (.cons_act (fun s => .wr .pcr _ h (by simp)) (.cons_done (.nil i))))

theorem EffectsOf.disallp (p : Params) : EffectsOf .disallp (seqDisallp p) := by
  refine .append (fun f hf => ?_) (.cons_done (.nil _))
  obtain ⟨id, _, hf⟩ := List.mem_flatMap.1 hf
  have h : EffectsOf .disallp (disableRound id) :=
    .cons_act (fun s => .write .pcr _ _ (by trivial) (by simp)) (.cons_act (fun _ => .temps _)
      (.cons_act (fun s => .wr .pcr _ (by trivial) (by simp)) (.nil _)))
  exact h f hf

theorem EffectsOf.callDispck {i : Instr} (n : Fin 3) (h : mayChange i .pckenr) : EffectsOf i (callDispck n) :=
  .cons_act (fun s => .wr .pckenr _ h (by simp)) (.cons_wait (.nil i))

/-- Everything a command is: a run of the engine over a sequence that depends on the parameters alone, every effect of
which is one of the five of `Effect`. -/
theorem exec_runs (i : Instr) : ∃ sq : Params → List Micro,
    (∀ s, exec i s = .next (runCommand i (sq s.params) s)) ∧ ∀ p, EffectsOf i (sq p) := by
  cases i with
  | getmck => exact ⟨fun _ => seqGetmck, fun _ => rfl, fun _ =>
      .append (.callGetmck (.cons_act (fun s => .result _ trivial) (.nil _)) (by simp)) (.cons_done (.nil _))⟩
  | getcpu => exact ⟨fun _ => seqGetcpu, fun _ => rfl, fun _ =>
      .append (.callGetmck (.keepMck _) (by simp)) (.resDone _ trivial)⟩
  | getslck => exact ⟨fun _ => seqGetslck, fun _ => rfl, fun _ => .resDone _ trivial⟩
  | getmainck => exact ⟨fun _ => seqGetmainck, fun _ => rfl, fun _ => .resDone _ trivial⟩
  | getplla => exact ⟨fun _ => seqGetplla, fun _ => rfl, fun _ => .resDone _ trivial⟩
  | inval => exact ⟨fun _ => seqInval, fun _ => rfl, fun _ =>
      .cons_act (fun _ => .forget trivial id) (.cons_done (.nil _))⟩
  | swmain => exact ⟨fun _ => seqSwmain, fun _ => rfl, fun _ =>
      .append (.changeMckr _ trivial trivial id) (.cons_done (.nil _))⟩
  | swpll => exact ⟨fun _ => seqSwpll, fun _ => rfl, fun _ =>
      .append (.changeMckr _ trivial trivial id) (.cons_done (.nil _))⟩
  | swslck => exact ⟨fun _ => seqSwslck, fun _ => rfl, fun _ =>
      .append (.changeMckr _ trivial trivial id) (.cons_done (.nil _))⟩
  | setpres a => exact ⟨fun _ => seqSetpres a, fun _ => rfl, fun _ =>
      .append (.changeMckr _ trivial trivial id) (.cons_done (.nil _))⟩
  | setmdiv a => exact ⟨fun _ => seqSetmdiv a, fun _ => rfl, fun _ =>
      .append (.changeMckr _ trivial trivial id) (.cons_done (.nil _))⟩
  | setplladiv2 a => exact ⟨fun _ => seqSetplladiv2 a, fun _ => rfl, fun _ =>
      .cons_ifThen (.append (.changeMckr _ trivial trivial id) (.cons_done (.nil _)))⟩
  | selxslck => exact ⟨fun p => switchSlowOscillator p 1, fun _ => rfl, fun p =>
      .switchSlowOscillator p 1 trivial (.inl rfl) trivial id⟩
  | selislck => exact ⟨fun p => switchSlowOscillator p 0, fun _ => rfl, fun p =>
      .switchSlowOscillator p 0 trivial (.inr rfl) trivial id⟩
  | setplla => exact ⟨fun _ => seqSetplla, fun _ => rfl, fun _ =>
      .cons_act (fun s => .wr .pllar _ (.inl rfl) (by simp)) (.cons_act (fun s => .wr .cpr _ rfl (by simp))
        (.cons_wait (.cons_act (fun _ => .forget trivial id) (.cons_done (.nil _)))))⟩
  | displla => exact ⟨fun _ => seqDisplla, fun _ => rfl, fun _ =>
      .cons_act (fun s => .wr .pllar _ (.inr rfl) (by simp)) (.cons_act (fun _ => .forget trivial id)
        (.cons_done (.nil _)))⟩
  | enp a => exact ⟨fun _ => seqEnp a, fun _ => rfl, fun _ => .readModifyWrite _ _ trivial⟩
  | disp a => exact ⟨fun _ => seqDisp a, fun _ => rfl, fun _ => .readModifyWrite _ _ trivial⟩
  | isenp a => exact ⟨fun _ => seqIsenp a, fun _ => rfl, fun _ =>
      .cons_act (fun _ => .wr .pcr _ trivial (by simp)) (.cons_act (fun _ => .temps _) (.resDone _ trivial))⟩
  | getpclk a =>
    refine ⟨fun p => seqGetpclk p a, fun _ => rfl, fun p => ?_⟩
    show EffectsOf _ (seqGetpclk p a)
    unfold seqGetpclk
    split
    · exact .resDone _ trivial
    · exact .append (.callGetmck (.keepMck _) (by simp)) (.resDone _ trivial)
  | disallp => exact ⟨seqDisallp, fun _ => rfl, EffectsOf.disallp⟩
  | cfgpck a b c => exact ⟨fun _ => seqCfgpck a b c, fun _ => rfl, fun _ =>
      .append (.callDispck _ trivial) (.cons_act (fun s => .wr (.pck (pckUnit a)) _ rfl (by simp))
        (.cons_done (.nil _)))⟩
  | enpck a => exact ⟨fun _ => seqEnpck a, fun _ => rfl, fun _ =>
      .cons_act (fun s => .wr .pckenr _ trivial (by simp)) (.cons_wait (.cons_done (.nil _)))⟩
  | dispck a => exact ⟨fun _ => seqDispck a, fun _ => rfl, fun _ =>
      .append (.callDispck _ trivial) (.cons_done (.nil _))⟩
  | getpck a => exact ⟨fun _ => seqGetpck a, fun _ => rfl, fun _ => .resDone _ trivial⟩

/-- The sequencer runs command `i` or has ended it. -/
def AtWork (i : Instr) (s : State) : Prop := s.seq = .idle ∨ ∃ k t, s.seq = .run (encode i) k t

/-- The induction over a command, once. `P` is kept by the turns, by every effect and by the sequencer's bookkeeping; it
holds where the engine starts: then it holds of what the command answers, which is a fault taken at once, the state
itself (a command that waits or is ignored), or the outcome of a run. -/
theorem exec_keeps (i : Instr) (P : State → Prop)
    (turns : ∀ (c : State → Bool) (s : State), P s → P (await c s.turns s).2)
    (effects : ∀ (s u : State), Effect i s u → ∀ k, P s → P (u.setIndex k))
    (index : ∀ (s : State) (k : Nat), P s → P (s.setIndex k)) (finish : ∀ s : State, P s → P (s.setSeq .idle))
    (s t : State) (h : exec i s = .next t) :
    (s.seq = .idle ∧ ∃ c, operandFault s.params i = some c ∧ t = raiseFault c (operandA i) (s.setCmd (encode i))) ∨
      t = s ∨
      (s.seq = .idle ∧ operandFault s.params i = none ∧
        (P ((s.setCmd (encode i)).setSeq (.run (encode i) 0 {})) → P t)) ∨
      ((∃ k t, s.seq = .run (encode i) k t) ∧ (P s → P t)) := by
  obtain ⟨sq, hsq, heff⟩ := exec_runs i
  rw [hsq] at h
  obtain rfl := Host.Outcome.next.inj h
  cases hs : s.seq with
  | idle =>
    cases hc : operandFault s.params i with
    | some c => exact .inl ⟨rfl, c, rfl, runCommand_fault hs hc⟩
    | none =>
      refine .inr (.inr (.inl ⟨rfl, rfl, fun hP => ?_⟩))
      rw [runCommand_idle hs hc]
      exact run_keeps P _ turns (fun f hf s k => effects s _ (heff _ f hf s) k) index finish _ _ _ hP
  | run w k t =>
    by_cases hw : w = encode i
    · subst hw
      refine .inr (.inr (.inr ⟨⟨k, t, rfl⟩, fun hP => ?_⟩))
      rw [runCommand_run hs]
      exact run_keeps P _ turns (fun f hf s k => effects s _ ((heff _).drop _ f hf s) k) index finish _ _ _ hP
    · exact .inr (.inl (runCommand_other hs hw))
  | faulted => exact .inr (.inl (runCommand_faulted hs))

end Sys2Proof.Machine
end

