-- ==== Sys2Proof/Laws/Encoding.lean ====
section
/-! SUPPORT. The fields of a command word as numbers (R61). -/

namespace Sys2Proof

/-- A field as a number: shift right, then keep `n` bits. -/
theorem bitField_toNat (w : Word) (lo n : Nat) : (bitField w lo n).toNat = w.toNat / 2 ^ lo % 2 ^ n := by
  simp [bitField, Nat.shiftRight_eq_div_pow]

/-- A word of format `C` as a number. -/
theorem formatC_toNat (op a b c : Byte) :
    (formatC op a b c).toNat = c.toNat * 2 ^ 24 + b.toNat * 2 ^ 16 + a.toNat * 2 ^ 8 + op.toNat := by
  have ho := op.isLt
  have ha := a.isLt
  have hb := b.isLt
  unfold formatC
  rw [BitVec.toNat_append, BitVec.toNat_append, BitVec.toNat_append, Nat.shiftLeft_eq, Nat.shiftLeft_eq,
    Nat.shiftLeft_eq, Nat.mul_comm _ (2 ^ 8), Nat.mul_comm _ (2 ^ 8), Nat.mul_comm _ (2 ^ 8),
    ← Nat.two_pow_add_eq_or_of_lt (by omega), ← Nat.two_pow_add_eq_or_of_lt (by omega),
    ← Nat.two_pow_add_eq_or_of_lt (by omega)]
  omega

/-- The four fields of a word of format `C` are those it was made of. -/
theorem bitField_formatC (op a b c : Byte) :
    bitField (formatC op a b c) 0 8 = op ∧ bitField (formatC op a b c) 8 8 = a ∧
      bitField (formatC op a b c) 16 8 = b ∧ bitField (formatC op a b c) 24 8 = c := by
  have ho := op.isLt
  have ha := a.isLt
  have hb := b.isLt
  have hc := c.isLt
  refine ⟨?_, ?_, ?_, ?_⟩ <;> apply BitVec.eq_of_toNat_eq <;> rw [bitField_toNat, formatC_toNat] <;> omega

/-- A word is made of its four fields. -/
theorem formatC_bitField (w : Word) :
    formatC (bitField w 0 8) (bitField w 8 8) (bitField w 16 8) (bitField w 24 8) = w := by
  have hw := w.isLt
  apply BitVec.eq_of_toNat_eq
  rw [formatC_toNat, bitField_toNat, bitField_toNat, bitField_toNat, bitField_toNat]
  omega

/-- Masking a word masks its fields (R63). -/
theorem formatC_and (op a b c op' a' b' c' : Byte) :
    formatC op a b c &&& formatC op' a' b' c' = formatC (op &&& op') (a &&& a') (b &&& b') (c &&& c') := by
  apply BitVec.eq_of_getLsbD_eq
  intro i _
  simp only [formatC, BitVec.getLsbD_and, BitVec.getLsbD_append]
  split
  · rfl
  · split
    · rfl
    · split <;> rfl

/-- Words with equal fields are equal, and only they. -/
theorem formatC_inj (op a b c op' a' b' c' : Byte) :
    formatC op a b c = formatC op' a' b' c' ↔ op = op' ∧ a = a' ∧ b = b' ∧ c = c' := by
  constructor
  · intro h
    have h1 := bitField_formatC op a b c
    rw [h] at h1
    have h2 := bitField_formatC op' a' b' c'
    exact ⟨h1.1.symm.trans h2.1, h1.2.1.symm.trans h2.2.1, h1.2.2.1.symm.trans h2.2.2.1,
      h1.2.2.2.symm.trans h2.2.2.2⟩
  · rintro ⟨rfl, rfl, rfl, rfl⟩
    rfl

/-- When a word without further fields is accepted (R61). -/
theorem noOther_ok (w : Word) (used : Nat) (i j : Instr) :
    noOther w used i = .ok j ↔ j = i ∧ w.toNat / 2 ^ used = 0 := by
  unfold noOther
  split
  · rename_i h
    have h := congrArg BitVec.toNat h
    rw [BitVec.toNat_ushiftRight, Nat.shiftRight_eq_div_pow] at h
    constructor
    · intro e
      exact ⟨(Except.ok.inj e).symm, h⟩
    · rintro ⟨rfl, _⟩
      rfl
  · rename_i h
    constructor
    · intro e
      simp at e
    · rintro ⟨_, h0⟩
      refine absurd (BitVec.eq_of_toNat_eq ?_) h
      rw [BitVec.toNat_ushiftRight, Nat.shiftRight_eq_div_pow, h0]
      rfl

end Sys2Proof
end

