-- ==== Sys2Proof/Laws/PerInstr.lean ====
section
/-! SUPPORT. Statements about every command as syntax, one lemma per command. -/

namespace Sys2Proof.Laws

/-- R61, R63: the opcode and the first operand stand in the fields `OP` and `A` of the command's word. -/
def Fields.Statement (i : Instr) : Prop := bitField (encode i) 0 8 = opcode i ∧ bitField (encode i) 8 8 = operandA i

/-- The fields of a word made of an opcode and operands. -/
theorem fields_formatC (op a b c : Byte) :
    bitField (formatC op a b c) 0 8 = op ∧ bitField (formatC op a b c) 8 8 = a :=
  ⟨(bitField_formatC op a b c).1, (bitField_formatC op a b c).2.1⟩

theorem Fields.getmck : Fields.Statement .getmck := fields_formatC _ _ _ _
theorem Fields.getcpu : Fields.Statement .getcpu := fields_formatC _ _ _ _
theorem Fields.getslck : Fields.Statement .getslck := fields_formatC _ _ _ _
theorem Fields.getmainck : Fields.Statement .getmainck := fields_formatC _ _ _ _
theorem Fields.getplla : Fields.Statement .getplla := fields_formatC _ _ _ _
theorem Fields.inval : Fields.Statement .inval := fields_formatC _ _ _ _
theorem Fields.swmain : Fields.Statement .swmain := fields_formatC _ _ _ _
theorem Fields.swpll : Fields.Statement .swpll := fields_formatC _ _ _ _
theorem Fields.swslck : Fields.Statement .swslck := fields_formatC _ _ _ _
theorem Fields.setpres (a : Byte) : Fields.Statement (.setpres a) := fields_formatC _ _ _ _
theorem Fields.setmdiv (a : Byte) : Fields.Statement (.setmdiv a) := fields_formatC _ _ _ _
theorem Fields.setplladiv2 (a : Byte) : Fields.Statement (.setplladiv2 a) := fields_formatC _ _ _ _
theorem Fields.selxslck : Fields.Statement .selxslck := fields_formatC _ _ _ _
theorem Fields.selislck : Fields.Statement .selislck := fields_formatC _ _ _ _
theorem Fields.setplla : Fields.Statement .setplla := fields_formatC _ _ _ _
theorem Fields.displla : Fields.Statement .displla := fields_formatC _ _ _ _
theorem Fields.enp (a : Byte) : Fields.Statement (.enp a) := fields_formatC _ _ _ _
theorem Fields.disp (a : Byte) : Fields.Statement (.disp a) := fields_formatC _ _ _ _
theorem Fields.isenp (a : Byte) : Fields.Statement (.isenp a) := fields_formatC _ _ _ _
theorem Fields.getpclk (a : Byte) : Fields.Statement (.getpclk a) := fields_formatC _ _ _ _
theorem Fields.disallp : Fields.Statement .disallp := fields_formatC _ _ _ _
theorem Fields.cfgpck (a b c : Byte) : Fields.Statement (.cfgpck a b c) := fields_formatC _ _ _ _
theorem Fields.enpck (a : Byte) : Fields.Statement (.enpck a) := fields_formatC _ _ _ _
theorem Fields.dispck (a : Byte) : Fields.Statement (.dispck a) := fields_formatC _ _ _ _
theorem Fields.getpck (a : Byte) : Fields.Statement (.getpck a) := fields_formatC _ _ _ _

end Sys2Proof.Laws
end

