-- ==== Sys2Proof/Laws/Runs.lean ====
section
/-! SUPPORT. Runs of the engine that nothing breaks off: each micro-operation happens, and the environment's steps before
it move `SR` only. -/

namespace Sys2Proof.Machine

/-- What is left of unbroken turns is unbroken. -/
theorem Unbroken.tail {t : Turn} {ts : List Turn} (h : Unbroken (t :: ts)) : Unbroken ts :=
  ⟨fun m => h.1 (by simp [m]), fun m => h.2 (by simp [m])⟩

/-- What is left of silent turns is silent. -/
theorem Silent.tail {t : Turn} {ts : List Turn} (h : Silent (t :: ts)) : Silent ts := fun e m => h e (by simp [m])

/-- Unbroken turns let an always enabled micro-operation happen. -/
theorem await_unbroken (ts : List Turn) (s : State) (h : Unbroken ts) :
    ∃ sr ts', await (fun _ => true) ts s = (true, (s.setSr sr).setTurns ts') ∧ Unbroken ts' ∧
      (∀ t ∈ ts', t ∈ ts) ∧ (Silent ts → sr = s.sr) := by
  induction ts generalizing s with
  | nil => exact ⟨s.sr, [], rfl, h, by simp, fun _ => rfl⟩
  | cons t ts ih =>
    cases t with
    | go => exact ⟨s.sr, ts, rfl, h.tail, fun t ht => List.mem_cons_of_mem _ ht, fun _ => rfl⟩
    | env e =>
      obtain ⟨sr, ts', h1, h2, h3, _⟩ := ih (envStep e s) h.tail
      refine ⟨sr, ts', ?_, h2, fun t ht => List.mem_cons_of_mem _ (h3 t ht), fun q => absurd (by simp) (q e)⟩
      rw [await_env, h1, envStep_eq e s]
      rfl
    | reset => exact absurd (by simp) h.1
    | hold => exact absurd (by simp) h.2

/-- Unbroken turns carry the engine over an always enabled micro-operation. -/
theorem run_act_unbroken (f : State → State) (ms : List Micro) (k : Nat) (s : State) (h : Unbroken s.turns) :
    ∃ sr ts, run (.act f :: ms) 0 k s = run ms 0 (k + 1) ((f ((s.setSr sr).setTurns ts)).setIndex (k + 1)) ∧
      Unbroken ts ∧ (∀ t ∈ ts, t ∈ s.turns) ∧ (Silent s.turns → sr = s.sr) := by
  obtain ⟨sr, ts, h1, h2, h3, h4⟩ := await_unbroken s.turns s h
  exact ⟨sr, ts, by rw [run_act, h1]; rfl, h2, h3, h4⟩

/-- Unbroken turns carry the engine to the end of a command. -/
theorem run_done_unbroken (ms : List Micro) (k : Nat) (s : State) (h : Unbroken s.turns) :
    ∃ sr ts, run (.done :: ms) 0 k s = ((s.setSr sr).setTurns ts).setSeq .idle ∧
      (∀ t ∈ ts, t ∈ s.turns) ∧ (Silent s.turns → sr = s.sr) := by
  obtain ⟨sr, ts, h1, _, h3, h4⟩ := await_unbroken s.turns s h
  exact ⟨sr, ts, by rw [run_done, h1]; rfl, h3, h4⟩

/-- A wait ends where the condition holds already or the environment's answer is among the turns, if the answer
establishes the condition and nothing the environment does undoes it. `P` is what the environment's guards read. -/
theorem await_answered (g : Word → Bool) (e : EnvStep) (P : Word)
    (keep : ∀ (e' : EnvStep) (s : State), s.pckenr = P → g s.sr = true → g (envStep e' s).sr = true)
    (answer : ∀ s : State, s.pckenr = P → g (envStep e s).sr = true)
    (ts : List Turn) (s : State) (hP : s.pckenr = P) (h : Unbroken ts) (ha : g s.sr = true ∨ .env e ∈ ts) :
    ∃ sr ts', await (fun s => g s.sr) ts s = (true, (s.setSr sr).setTurns ts') ∧ Unbroken ts' ∧
      (∀ t ∈ ts', t ∈ ts) ∧ g sr = true ∧ (Silent ts → sr = s.sr) := by
  induction ts generalizing s with
  | nil =>
    have hg : g s.sr = true := by simpa using ha
    exact ⟨s.sr, [], by rw [await_nil, hg]; rfl, h, by simp, hg, fun _ => rfl⟩
  | cons t ts ih =>
    cases t with
    | go =>
      by_cases hg : g s.sr = true
      · exact ⟨s.sr, ts, by rw [await_go, if_pos hg]; rfl, h.tail, fun t ht => List.mem_cons_of_mem _ ht, hg,
          fun _ => rfl⟩
      · have ha' : g s.sr = true ∨ .env e ∈ ts := by
          rcases ha with ha | ha
          · exact absurd ha hg
          · exact .inr (by simpa using ha)
        obtain ⟨sr, ts', h1, h2, h3, h4, h5⟩ := ih s hP h.tail ha'
        exact ⟨sr, ts', by rw [await_go, if_neg hg, h1], h2, fun t ht => List.mem_cons_of_mem _ (h3 t ht), h4,
          fun q => h5 q.tail⟩
    | env e' =>
      have hP' : (envStep e' s).pckenr = P := by rw [envStep_eq]; exact hP
      have ha' : g (envStep e' s).sr = true ∨ .env e ∈ ts := by
        rcases ha with ha | ha
        · exact .inl (keep e' s hP ha)
        · rcases List.mem_cons.1 ha with heq | ha
          · obtain rfl : e = e' := by simpa using heq
            exact .inl (answer s hP)
          · exact .inr ha
      obtain ⟨sr, ts', h1, h2, h3, h4, _⟩ := ih (envStep e' s) hP' h.tail ha'
      refine ⟨sr, ts', ?_, h2, fun t ht => List.mem_cons_of_mem _ (h3 t ht), h4, fun q => absurd (by simp) (q e')⟩
      rw [await_env, h1, envStep_eq e' s]
      rfl
    | reset => exact absurd (by simp) h.1
    | hold => exact absurd (by simp) h.2

/-- After the turn of a first micro-operation, an answer that comes later is still to come. -/
theorem await_answers {e : EnvStep} {ts : List Turn} (h : Answers e ts) (s : State) :
    ∃ sr ts', await (fun _ => true) ts s = (true, (s.setSr sr).setTurns ts') ∧ Unbroken ts' ∧ .env e ∈ ts' := by
  obtain ⟨hu, before, after, rfl, hb, he⟩ := h
  induction before generalizing s with
  | nil => exact ⟨s.sr, after, rfl, hu.tail, he⟩
  | cons t before ih =>
    obtain ⟨e', rfl⟩ := hb t (by simp)
    obtain ⟨sr, ts', h1, h2, h3⟩ := ih (envStep e' s) hu.tail fun t ht => hb t (by simp [ht])
    refine ⟨sr, ts', ?_, h2, h3⟩
    rw [List.cons_append, await_env, h1, envStep_eq e' s]
    rfl

/-- Where the host moves next, a step between two commands is its access. -/
theorem step_hostsTurn {s : State} {ts : List Turn} (hq : s.seq = .idle ∨ s.seq = .faulted) (h : HostsTurn s ts) :
    step s = hostTurn (s.setTurns ts) := by
  obtain ⟨h, rfl⟩ | h := h <;> rcases hq with hq | hq <;> simp only [step, hq, portTurn, h]
  all_goals rw [← h]; rfl

/-- The turns of two answers hold an answer to the first write. -/
theorem AnswersTwice.answers {n : Nat} {ts : List Turn} (h : AnswersTwice n ts) : Answers .mckReady ts := by
  obtain ⟨hu, before, waiting, middle, after, rfl, hb, _⟩ := h
  exact ⟨hu, before, _, rfl, hb, by simp⟩

end Sys2Proof.Machine
end

