-- ==== Sys2Proof/Tests/Slice0.lean ====
section
/-! SUPPORT. Tests on fixed values. The words and the expected results are those of spec/95_test_vectors.md or worked out
by hand from the rule a test names; the parameters are the vectors' set `V0`. The witnesses at the end show, for each
statement with hypotheses, a state and operands that meet them all. -/

namespace Sys2Proof.Machine.Tests

/-! ## WellFormed (R62, R65) -/

theorem test_wellFormed_refuses_wide_source : ¬ (Instr.cfgpck 0 8 0).WellFormed := by decide
theorem test_wellFormed_accepts_widest_source : (Instr.cfgpck 255 7 255).WellFormed := by decide

/-! ## Decoding: every constructor from a word written out from R61 and R63 -/

theorem test_decode_queries :
    decode 0x00000001 = .ok .getmck ∧ decode 0x00000002 = .ok .getcpu ∧ decode 0x00000003 = .ok .getslck ∧
      decode 0x00000004 = .ok .getmainck ∧ decode 0x00000005 = .ok .getplla ∧ decode 0x00000006 = .ok .inval := by
  decide
theorem test_decode_switching :
    decode 0x00000010 = .ok .swmain ∧ decode 0x00000011 = .ok .swpll ∧ decode 0x00000012 = .ok .swslck ∧
      decode 0x00000213 = .ok (.setpres 2) ∧ decode 0x00000114 = .ok (.setmdiv 1) ∧
      decode 0x00000115 = .ok (.setplladiv2 1) ∧ decode 0x00000016 = .ok .selxslck ∧
      decode 0x00000017 = .ok .selislck := by decide
theorem test_decode_pll : decode 0x00000020 = .ok .setplla ∧ decode 0x00000021 = .ok .displla := by decide
theorem test_decode_gating :
    decode 0x00000530 = .ok (.enp 5) ∧ decode 0x0000C831 = .ok (.disp 200) ∧ decode 0x00000732 = .ok (.isenp 7) ∧
      decode 0x00000333 = .ok (.getpclk 3) ∧ decode 0x00000034 = .ok .disallp := by decide
theorem test_decode_programmable_clocks :
    decode 0xFF070240 = .ok (.cfgpck 2 7 255) ∧ decode 0x00000241 = .ok (.enpck 2) ∧
      decode 0x00000242 = .ok (.dispck 2) ∧ decode 0x00000143 = .ok (.getpck 1) := by decide
/-- spec/95_test_vectors.md section 2.8. -/
theorem test_decode_refuses_illegal_words :
    decode 0x00000000 = .error .unknownOpcode ∧ decode 0x00000007 = .error .unknownOpcode ∧
      decode 0x000000FF = .error .unknownOpcode ∧ decode 0x00000101 = .error .unusedFieldNonzero ∧
      decode 0x00010530 = .error .unusedFieldNonzero ∧ decode 0x00080040 = .error .unusedFieldNonzero := by decide

/-! ## One step each, on a small state -/

/-- The parameter set `V0` of spec/95_test_vectors.md. -/
def v0 : Params := ⟨32000, 32768, 8000000, 12000000, 5, [0, 0, 1, 2, 4, 0, 1, 8], 4⟩

/-- The state after reset with `V0`. -/
def fresh : State := { State.reset with params := v0 }

/-- It is the host's turn, to write the command word `w`, and `ts` is who moves after that. -/
def told (w : Word) (ts : List Turn) (s : State) : State := (s.setScript [.write 0 4 w]).setTurns (.go :: ts)

/-- The host reads a register. -/
def asked (off : Nat) (s : State) : State := s.setScript [.read off 4]

/-- What `f` sees of the state after the step, where there is one. -/
def seen {α : Type} (f : State → α) (s : State) : Option α :=
  match step s with
  | .next t => some (f t)
  | _ => none

theorem test_getmck_end_to_end :
    seen (fun t => (t.result, t.mckcache)) (told 0x01 [] { fresh with oscr := 2, mckr := 0x121 }) =
      some (1500000, 1500000) := by decide
theorem test_getmck_returns_the_stale_word :
    seen (fun t => (t.result, t.mckcache)) (told 0x01 [] { fresh with mckr := 0x121, mckcache := 12000000 }) =
      some (12000000, 12000000) := by decide
theorem test_getcpu_loses_the_remainder :
    seen (fun t => (t.result, t.mckcache))
        (told 0x02 [] { fresh with params := { v0 with fMainRc := 100 }, mckr := 0x301 }) = some (99, 33) := by decide
theorem test_getcpu_uses_the_current_factor :
    seen (fun t => t.result) (told 0x02 [] { fresh with mckr := 0x121, mckcache := 12000000 }) = some 24000000 := by
  decide
theorem test_getslck_external :
    seen (fun t => (t.result, t.mckcache)) (told 0x03 [] { fresh with oscr := 1 }) = some (32768, 0) := by decide
theorem test_getmainck_internal : seen (fun t => t.result) (told 0x04 [] fresh) = some 8000000 := by decide
theorem test_getplla_wraps :
    seen (fun t => t.result)
        (told 0x05 [] { fresh with params := { v0 with fMainRc := 40000000 }, pllar := 0x01FC0001 }) =
      some 825032704 := by decide
theorem test_getplla_halves :
    seen (fun t => t.result) (told 0x05 [] { fresh with oscr := 2, pllar := 0x001C0005, mckr := 0x1000 }) =
      some 9600000 := by decide
theorem test_inval_forgets :
    seen (fun t => (t.mckcache, t.result)) (told 0x06 [] { fresh with mckcache := 1500000, result := 7 }) =
      some (0, 7) := by decide
theorem test_swmain_preserves_the_dividers :
    seen (fun t => (t.mckr, t.sr, t.mckcache))
        (told 0x10 [.go, .env .mckReady] { fresh with mckr := 0x120, mckcache := 4096 }) =
      some (0x121, 8, 0) := by decide
/-- The hang vector of spec/95_test_vectors.md section 2.4. -/
theorem test_swmain_hangs :
    seen (fun t => (t.mckr, t.sr, t.mckcache, t.fsr, t.seq)) (told 0x10 [] { fresh with mckcache := 5 }) =
      some (1, 0, 5, 0, .run 0x10 1 {}) := by decide
theorem test_swpll_from_main :
    seen (fun t => (t.mckr, t.seq)) (told 0x11 [.go, .env .mckReady] { fresh with mckr := 0x1301 }) =
      some (0x1302, .idle) := by decide
theorem test_swslck_leaves_the_unrecognised_source :
    seen (fun t => t.mckr) (told 0x12 [.go, .env .mckReady] { fresh with mckr := 3 }) = some 0 := by decide
theorem test_setpres_largest :
    seen (fun t => t.mckr) (told 0x613 [.go, .env .mckReady] fresh) = some 0x60 := by decide
theorem test_setpres_seven_faults :
    seen (fun t => (t.mckr, t.sr, t.fsr, t.seq)) (told 0x713 [] fresh) = some (0, 8, 0x70201, .faulted) := by decide
theorem test_setmdiv_three :
    seen (fun t => t.mckr) (told 0x314 [.go, .env .mckReady] fresh) = some 0x300 := by decide
theorem test_setmdiv_four_faults : seen (fun t => t.fsr) (told 0x414 [] fresh) = some 0x40201 := by decide
theorem test_setplladiv2_writes :
    seen (fun t => t.mckr) (told 0x115 [.go, .env .mckReady] { fresh with mckr := 0x302 }) = some 0x1302 := by decide
theorem test_setplladiv2_skips :
    seen (fun t => (t.mckr, t.sr, t.mckcache)) (told 0x115 [] { fresh with mckr := 0x1302, mckcache := 132000000 }) =
      some (0x1302, 8, 132000000) := by decide
/-- Program P5 of spec/95_test_vectors.md. -/
theorem test_selxslck_from_the_slow_clock :
    seen (fun t => (t.mckr, t.oscr, t.sr, t.mckcache, t.seq))
        (told 0x16 ([.go, .env .mckReady] ++ List.replicate 8 .go ++ [.env .mckReady])
          { fresh with mckcache := 32000 }) = some (0, 1, 8, 0, .idle) := by decide
theorem test_selislck_from_the_pll :
    seen (fun t => (t.mckr, t.oscr, t.sr)) (told 0x17 [] { fresh with mckr := 2, oscr := 3 }) = some (2, 2, 8) := by
  decide
theorem test_setplla_stores_both_words :
    seen (fun t => (t.pllar, t.cpr, t.sr, t.seq))
        (told 0x20 [.go, .go, .env .lock] { fresh with arg0 := 0x01040001, arg1 := 3, sr := 0xA }) =
      some (0x01040001, 3, 0xA, .idle) := by decide
theorem test_displla_clears_the_multiplier :
    seen (fun t => (t.pllar, t.sr)) (told 0x21 [] { fresh with pllar := 0xFFFFFFFF, sr := 0xA }) =
      some (0xFE03FFFF, 8) := by decide
/-- Vectors F8 and F9 of spec/95_test_vectors.md section 2.6. -/
theorem test_enp_keeps_the_other_bits :
    seen (fun t => (t.periph, t.pcrSel)) (told 0x530 [] { fresh with periph := [(5, 0x10000)] }) =
      some ([(5, 0x10010000)], 5) := by decide
theorem test_enp_one_faults :
    seen (fun t => (t.fsr, t.pcrSel, t.cmd)) (told 0x130 [] fresh) = some (0x10101, 0, 0x130) := by decide
theorem test_disp_keeps_the_other_bits :
    seen (fun t => t.periph) (told 0x531 [] { fresh with periph := [(5, 0x10010000)] }) = some [(5, 0x10000)] := by
  decide
theorem test_disp_beyond_the_selector_faults : seen (fun t => t.fsr) (told 0xC831 [] fresh) = some 0xC80101 := by decide
theorem test_isenp_reads_the_gate :
    seen (fun t => (t.result, t.pcrSel)) (told 0x532 [] { fresh with periph := [(5, 0x10010000)] }) = some (1, 5) := by
  decide
theorem test_isenp_of_a_gated_peripheral :
    seen (fun t => t.result) (told 0x732 [] { fresh with result := 9, periph := [(5, 0x10000000)] }) = some 0 := by
  decide
theorem test_getpclk_divides :
    seen (fun t => (t.result, t.mckcache)) (told 0x733 [] { fresh with oscr := 2, mckr := 1 }) =
      some (1500000, 12000000) := by decide
theorem test_getpclk_without_a_divisor :
    seen (fun t => (t.result, t.mckcache)) (told 0x533 [] { fresh with oscr := 2, mckr := 1, result := 9 }) =
      some (0, 0) := by decide
theorem test_disallp_clears_the_gates_only :
    seen (fun t => (t.periph, t.pcrSel)) (told 0x34 [] { fresh with periph := [(2, 0x10000000), (7, 0x10000080)] }) =
      some ([(7, 0x80)], 7) := by decide
theorem test_cfgpck_waits_for_the_unit_to_stop :
    seen (fun t => (t.pckenr, t.pck[0], t.sr))
        (told 0x00010040 [.go, .env (.pckDown 0)] { fresh with pckenr := 1, sr := 0x108, pck := #v[0x32, 0, 0] }) =
      some (0, 1, 8) := by decide
theorem test_cfgpck_widest_operands :
    seen (fun t => (t.pck[2], t.seq)) (told 0xFF070240 [] fresh) = some (0xFF7, .idle) := by decide
theorem test_enpck_waits_for_the_unit :
    seen (fun t => (t.pckenr, t.sr, t.seq)) (told 0x241 [.go, .env (.pckUp 2)] fresh) =
      some (4, 0x408, .idle) := by decide
theorem test_dispck_leaves_the_other_units :
    seen (fun t => (t.pckenr, t.sr)) (told 0x242 [.go, .env (.pckDown 2)] { fresh with pckenr := 5, sr := 0x500 }) =
      some (1, 0x100) := by decide
theorem test_getpck_linear_prescaler :
    seen (fun t => t.result) (told 0x143 [] { fresh with oscr := 3, pck := #v[0, 0x7F1, 0] }) = some 93750 := by decide
theorem test_getpck_three_faults : seen (fun t => t.fsr) (told 0x343 [] fresh) = some 0x30401 := by decide

/-! ## The port, the window, faults, reset -/

theorem test_illegal_word_faults :
    seen (fun t => (t.cmd, t.fsr, t.seq)) (told 0x00010530 [] fresh) = some (0x00010530, 0x300301, .faulted) := by decide
theorem test_raw_write_lowers_the_ready_bit :
    seen (fun t => (t.mckr, t.sr)) (fresh.setScript [.write 0x20 4 0xFFFFFFFF]) = some (0xFFFFFFFF, 0) := by decide
theorem test_window_commits :
    seen (fun t => (t.periph, readReg .pcr t)) (fresh.setScript [.write 0x30 4 0xFFFFFF83]) =
      some ([(3, 0xFFFFEF80)], 0xFFFFEF83) := by decide
theorem test_window_refuses_a_reserved_id :
    seen (fun t => (t.periph, readReg .pcr t)) (fresh.setScript [.write 0x30 4 0x10001001]) = some ([], 1) := by decide
theorem test_window_selects_only :
    seen (fun t => (t.periph, readReg .pcr t)) (fresh.setScript [.write 0x30 4 0xFFFFFFFF]) = some ([], 0x7F) := by decide
theorem test_status_read : seen (fun t => t.reply) (asked 0x18 fresh) = some (some 8) := by decide
theorem test_read_beyond_the_map_is_refused : step (asked 0x44 fresh) = .refused .accessOutside := rfl
theorem test_fetched_word_runs :
    seen (fun t => t.result) ((fresh.setTurns [.reset]).withFetchWord 32 0x03) = some 32000 := by decide
theorem test_table_word_decodes : decodeTableWord 32 0x03020040 = some (.cfgpck 0 2 3) := by decide

/-! ## Witnesses: the hypotheses of each statement, met together -/

/-- A command that waits: `SWMAIN` after its write of `MCKR`. -/
def waiting : State := { fresh with cmd := 0x10, mckr := 1, sr := 0, seq := .run 0x10 1 {}, script := [.read 0x18 4] }

/-- A failed run: `ENP 1`. -/
def failed : State := { fresh with cmd := 0x130, fsr := 0x10101, seq := .faulted }

/-- The turns in which the environment answers `e`. -/
def answer (e : EnvStep) : List Turn := [.go, .env e]

theorem answers_answer (e : EnvStep) : Answers e (answer e) :=
  ⟨⟨by simp [answer], by simp [answer]⟩, [], [.env e], rfl, by simp, by simp⟩

theorem unbroken_nil : Unbroken [] := ⟨by simp, by simp⟩
theorem silent_nil : Silent [] := fun _ => by simp
theorem noReset_nil : NoReset [] := by simp [NoReset]

/-- A legal store. -/
theorem store_legal : StoreLegal v0 [(2, 0x10000000), (7, 0x10000080)] := by
  refine ⟨by decide, ?_⟩
  decide

theorem witness_DecodeOfEncodeIsTheCommand : (Instr.cfgpck 255 7 255).WellFormed ∧ (Instr.getmck).WellFormed := by
  decide
theorem witness_EncodeOfDecodeIsTheWord : decode 0xFF07FF40 = .ok (.cfgpck 255 7 255) := by decide
theorem witness_DecodeSelectsTheTableRow : (⟨"GETPCK", 0x00000043, 0xFFFF00FF⟩ : OpcodeRow) ∈ opcodeTable := by decide
theorem witness_StepRunsTheDecodedCommand :
    ((fresh.setScript [.write 0 4 0x01]).seq = .idle ∧ (fresh.setScript [.write 0 4 0x01]).turns = [] ∧
      (fresh.setScript [.write 0 4 0x01]).script = .write 0 4 0x01 :: [] ∧ decode 0x01 = .ok .getmck) ∧
    ((told 0x01 [] fresh).seq = .idle ∧ (told 0x01 [] fresh).script = .write 0 4 0x01 :: [] ∧
      (told 0x01 [] fresh).turns = .go :: []) ∧
    waiting.seq = .run 0x10 1 {} ∧ decode 0x10 = .ok .swmain ∧ ∀ ts, waiting.turns ≠ .reset :: ts := by
  refine ⟨by decide, by decide, by decide, by decide, fun ts h => ?_⟩
  cases h
theorem witness_IllegalWordFaults :
    (told 0x00080040 [] fresh).seq = .idle ∧ HostsTurn (told 0x00080040 [] fresh) [] ∧
      (told 0x00080040 [] fresh).script = .write 0 4 0x00080040 :: [] ∧
      ∀ r ∈ opcodeTable, (0x00080040 : Word) &&& r.mask ≠ r.pattern :=
  ⟨rfl, .inr rfl, rfl, by decide⟩
/-- Each cause of a check. -/
theorem witness_FailedOperandCheckFaults :
    fresh.seq = .idle ∧ operandFault fresh.params (.enp 1) = some .invalidPeripheralId ∧
      operandFault fresh.params (.setpres 7) = some .invalidDividerEncoding ∧
      operandFault fresh.params (.getpck 3) = some .invalidPckIndex := by decide
/-- Each clause at the two sides of its bound. -/
theorem witness_OperandChecks :
    operandFault v0 (.enp 1) = some .invalidPeripheralId ∧ operandFault v0 (.enp 2) = none ∧
      operandFault v0 (.getpclk 7) = none ∧ operandFault v0 (.getpclk 8) = some .invalidPeripheralId ∧
      operandFault v0 (.setpres 6) = none ∧ operandFault v0 (.setpres 7) = some .invalidDividerEncoding ∧
      operandFault v0 (.setmdiv 3) = none ∧ operandFault v0 (.setmdiv 4) = some .invalidDividerEncoding ∧
      operandFault v0 (.setplladiv2 1) = none ∧ operandFault v0 (.setplladiv2 2) = some .invalidDividerEncoding ∧
      operandFault v0 (.dispck 2) = none ∧ operandFault v0 (.dispck 3) = some .invalidPckIndex := by decide
theorem witness_CommandWaitsWhileAnotherRunsAndIsIgnoredInFaulted :
    waiting.seq = .run 0x10 1 {} ∧ (0x10 : Word) ≠ encode .getmck ∧ failed.seq = .faulted := by decide
theorem witness_HostReadReturnsTheRegister :
    (asked 0x40 fresh).seq = .idle ∧ (asked 0x10 failed).seq = .faulted ∧ HostsTurn (asked 0x40 fresh) [] ∧
      HostsTurn ((asked 0x40 fresh).setTurns [.go, .env .lock]) [.env .lock] ∧
      (asked 0x40 fresh).script = .read 0x40 4 :: [] :=
  ⟨rfl, rfl, .inl ⟨rfl, rfl⟩, .inr rfl, rfl⟩
theorem witness_HostWriteStoresTheRegister :
    fresh.seq = .idle ∧ HostsTurn (fresh.setScript [.write 0x40 4 5]) [] ∧
      HostsTurn ((fresh.setScript [.write 0x40 4 5]).setTurns [.go, .env .lock]) [.env .lock] ∧
      (fresh.setScript [.write 0x40 4 5]).script = .write 0x40 4 5 :: [] :=
  ⟨rfl, .inl ⟨rfl, rfl⟩, .inr rfl, rfl⟩
theorem witness_ReadOnlyRegistersIgnoreHostWrites :
    fresh.seq = .idle ∧ failed.seq = .faulted ∧ HostsTurn (failed.setTurns [.go, .env .lock]) [.env .lock] ∧
      (fresh.setScript [.write 0x0C 4 5]).script = .write 0x0C 4 5 :: [] ∧
      0x0C ∈ [0x0C, 0x10, 0x14, 0x18, 0x1C] ∧ 0x1C ∈ [0x0C, 0x10, 0x14, 0x18, 0x1C] :=
  ⟨rfl, rfl, .inr rfl, rfl, by decide, by decide⟩
/-- One access of each kind that is refused, and the last that is not. -/
theorem witness_PortRefusesOtherAccesses :
    (asked 0x40 fresh).seq = .idle ∧ HostsTurn ((asked 0x40 fresh).setTurns [.go]) [] ∧ portRefusal 0x40 4 = none ∧
      portRefusal 0x44 4 = some .accessOutside ∧ portRefusal 0x40 2 = some .accessWidth ∧
      portRefusal 0x3E 4 = some .accessMisaligned :=
  ⟨rfl, .inr rfl, by decide⟩
theorem witness_PcrWindow : StoreLegal v0 [(2, 0x10000000), (7, 0x10000080)] := store_legal
theorem witness_PortStallsWhileACommandRuns :
    waiting.seq = .run 0x10 1 {} ∧ NoReset waiting.turns ∧ step waiting = .next waiting :=
  ⟨rfl, noReset_nil, rfl⟩
/-- A step that leaves FAULTED, one of the environment, and a host's write that changes nothing of the block. -/
theorem witness_FaultedIsLeftByResetOnly :
    failed.seq = .faulted ∧ seen (fun t => t.seq) (failed.setTurns [.reset]) = some .idle ∧
      step (failed.setTurns [.env .lock]) = .next (failed.setSr 0xA) ∧
      step (failed.setScript [.write 0x20 4 5]) = .next failed := by
  refine ⟨rfl, by decide, rfl, rfl⟩
theorem witness_FaultsComeFromCommandWordsOnly :
    (told 0x130 [] fresh).seq ≠ .faulted ∧ seen (fun t => t.seq) (told 0x130 [] fresh) = some .faulted := by decide
theorem witness_ResetSetsEveryRegister :
    (waiting.setTurns [.reset]).turns = .reset :: [] ∧ (waiting.setTurns [.reset]).seq = .run 0x10 1 {} ∧
      (failed.setTurns [.reset]).turns = .reset :: [] := by decide
/-- Each step with a guard that holds and one that fails. -/
theorem witness_EnvironmentSteps :
    (waiting.setSeq .idle).seq = .idle ∧ failed.seq = .faulted ∧
      (failed.setTurns [.env .lock]).turns = .env .lock :: [] ∧
      (bitSet waiting.sr 3 = false ∧ (envStep .mckReady waiting).sr = 8 ∧ envStep .mckReady fresh = fresh) ∧
      (bitSet fresh.sr 1 = false ∧ (envStep .lock fresh).sr = 0xA ∧
        envStep .lock (fresh.setSr 0xA) = fresh.setSr 0xA) ∧
      ((envStep (.pckUp 2) (fresh.setPckenr 4)).sr = 0x408 ∧ envStep (.pckUp 2) fresh = fresh) ∧
      (envStep (.pckDown 2) (fresh.setSr 0x408)).sr = 8 ∧ envStep (.pckDown 2) fresh = fresh := by decide
theorem witness_StatusBitsMoveOnlyByTheirCauses :
    NoReset (answer .mckReady) ∧
      seen (fun t => (t.mckrdy, t.seq)) (told 0x10 (answer .mckReady) fresh) = some (true, .idle) := by
  refine ⟨by simp [NoReset, answer], by decide⟩
theorem witness_PllaOutputValue : (fMain fresh).toNat ≤ 33554431 := by decide
/-- The state and the turns that the statements of the commands without a wait ask for. -/
theorem witness_SourceQueriesComplete : fresh.seq = .idle ∧ Unbroken fresh.turns ∧ Silent fresh.turns :=
  ⟨rfl, unbroken_nil, silent_nil⟩
theorem witness_GetmckCompletes : fresh.seq = .idle ∧ Unbroken fresh.turns ∧ Silent fresh.turns :=
  ⟨rfl, unbroken_nil, silent_nil⟩
theorem witness_GetcpuCompletes : fresh.seq = .idle ∧ Unbroken fresh.turns ∧ Silent fresh.turns :=
  ⟨rfl, unbroken_nil, silent_nil⟩
theorem witness_InvalCompletes : fresh.seq = .idle ∧ Unbroken fresh.turns ∧ Silent fresh.turns :=
  ⟨rfl, unbroken_nil, silent_nil⟩
theorem witness_SwitchCommandsComplete :
    (fresh.setTurns (answer .mckReady)).seq = .idle ∧
      Answers .mckReady (fresh.setTurns (answer .mckReady)).turns := ⟨rfl, answers_answer _⟩
/-- Both divider commands at the largest operand. -/
theorem witness_DividerCommandsComplete :
    (fresh.setTurns (answer .mckReady)).seq = .idle ∧
      Answers .mckReady (fresh.setTurns (answer .mckReady)).turns ∧ (6 : Byte).toNat ≤ 6 ∧ (3 : Byte).toNat ≤ 3 :=
  ⟨rfl, answers_answer _, by decide, by decide⟩
/-- The flag differs with the operand 1 and is as requested with the operand 0. -/
theorem witness_Setplladiv2Completes :
    (fresh.setTurns (answer .mckReady)).seq = .idle ∧ (1 : Byte).toNat ≤ 1 ∧
      bitField fresh.mckr 12 1 ≠ (1 : Byte).setWidth 1 ∧
      Answers .mckReady (fresh.setTurns (answer .mckReady)).turns ∧
      bitField fresh.mckr 12 1 = (0 : Byte).setWidth 1 ∧ Unbroken fresh.turns ∧ Silent fresh.turns :=
  ⟨rfl, by decide, by decide, answers_answer _, by decide, unbroken_nil, silent_nil⟩
/-- The environment answers each write of the oscillator switch, the first after a turn in which the engine waits; the
engine takes `n` turns between. -/
theorem answersTwice_replicate (n : Nat) :
    AnswersTwice n ([.env .lock, .go, .go, .env .mckReady] ++ List.replicate n .go ++ [.env .mckReady]) :=
  ⟨⟨by simp [List.mem_replicate], by simp [List.mem_replicate]⟩, [.env .lock], [.go], List.replicate n .go, [], by simp,
    by simp, by simp⟩

theorem witness_OscillatorSwitchFromTheSlowClockCompletes :
    fresh.seq = .idle ∧ bitField fresh.mckr 0 2 = 0 ∧ AnswersTwice (fresh.params.settleIter + 4)
      ([.env .lock, .go, .go, .env .mckReady] ++ List.replicate 8 .go ++ [.env .mckReady]) :=
  ⟨rfl, by decide, answersTwice_replicate 8⟩
theorem witness_OscillatorSwitchFromOtherSourcesCompletes :
    (fresh.setMckr 3).seq = .idle ∧ bitField (fresh.setMckr 3).mckr 0 2 ≠ 0 ∧ Unbroken (fresh.setMckr 3).turns ∧
      Silent (fresh.setMckr 3).turns := ⟨rfl, by decide, unbroken_nil, silent_nil⟩
theorem witness_SetpllaCompletes :
    (fresh.setTurns (answer .lock)).seq = .idle ∧ Answers .lock (fresh.setTurns (answer .lock)).turns :=
  ⟨rfl, answers_answer _⟩
theorem witness_DispllaCompletes : fresh.seq = .idle ∧ Unbroken fresh.turns ∧ Silent fresh.turns :=
  ⟨rfl, unbroken_nil, silent_nil⟩
/-- The first and the last valid ID, over a store that is not empty. -/
def gated : State := { fresh with periph := [(2, 0x10000000), (7, 0x10000080)] }
theorem witness_EnpCompletes :
    gated.seq = .idle ∧ Unbroken gated.turns ∧ validId gated.params (2 : Byte).toNat = true ∧
      validId gated.params (7 : Byte).toNat = true ∧ StoreLegal gated.params gated.periph ∧ Silent gated.turns :=
  ⟨rfl, unbroken_nil, by decide, by decide, store_legal, silent_nil⟩
theorem witness_DispCompletes :
    gated.seq = .idle ∧ Unbroken gated.turns ∧ validId gated.params (7 : Byte).toNat = true ∧
      StoreLegal gated.params gated.periph ∧ Silent gated.turns :=
  ⟨rfl, unbroken_nil, by decide, store_legal, silent_nil⟩
theorem witness_IsenpCompletes :
    gated.seq = .idle ∧ Unbroken gated.turns ∧ validId gated.params (7 : Byte).toNat = true ∧ Silent gated.turns :=
  ⟨rfl, unbroken_nil, by decide, silent_nil⟩
/-- A peripheral with a divisor and one without. -/
theorem witness_GetpclkCompletes :
    gated.seq = .idle ∧ Unbroken gated.turns ∧ validId gated.params (7 : Byte).toNat = true ∧
      gated.params.divisor (7 : Byte).toNat = 8 ∧ validId gated.params (5 : Byte).toNat = true ∧
      gated.params.divisor (5 : Byte).toNat = 0 ∧ Silent gated.turns :=
  ⟨rfl, unbroken_nil, by decide, by decide, by decide, by decide, silent_nil⟩
theorem witness_DisallpCompletes :
    gated.seq = .idle ∧ Unbroken gated.turns ∧ StoreLegal gated.params gated.periph ∧ Silent gated.turns :=
  ⟨rfl, unbroken_nil, store_legal, silent_nil⟩
/-- Both commands end, and then again. -/
theorem witness_DisablingTwiceIsDisablingOnce :
    gated.seq = .idle ∧ gated.turns = [] ∧ operandFault gated.params .disallp = none ∧
      operandFault gated.params (.disp 7) = none ∧ StoreLegal gated.params gated.periph ∧
      ∃ t u, exec .disallp gated = .next t ∧ exec .disallp t = .next u :=
  ⟨rfl, rfl, by decide, by decide, store_legal, _, _, rfl, rfl⟩
theorem witness_GetpckCompletes : fresh.seq = .idle ∧ Unbroken fresh.turns ∧ Silent fresh.turns :=
  ⟨rfl, unbroken_nil, silent_nil⟩
/-- A unit that is not ready, and one whose stop the environment answers. -/
theorem witness_CfgpckCompletes :
    (fresh.seq = .idle ∧ Unbroken fresh.turns ∧ fresh.pckrdy 2 = false ∧ Turn.env (.pckUp 2) ∉ fresh.turns) ∧
      Answers (.pckDown 2) (fresh.setTurns (answer (.pckDown 2))).turns ∧ Silent fresh.turns :=
  ⟨⟨rfl, unbroken_nil, by decide, silent_nil _⟩, answers_answer _, silent_nil⟩
/-- A unit that is ready, and one whose start the environment answers. -/
theorem witness_EnpckCompletes :
    ((fresh.setSr 0x408).seq = .idle ∧ Unbroken fresh.turns ∧ (fresh.setSr 0x408).pckrdy 2 = true ∧
        Turn.env (.pckDown 2) ∉ fresh.turns) ∧
      Answers (.pckUp 2) (fresh.setTurns (answer (.pckUp 2))).turns ∧ Silent fresh.turns :=
  ⟨⟨rfl, unbroken_nil, by decide, silent_nil _⟩, answers_answer _, silent_nil⟩
theorem witness_DispckCompletes :
    (fresh.seq = .idle ∧ Unbroken fresh.turns ∧ fresh.pckrdy 2 = false ∧ Turn.env (.pckUp 2) ∉ fresh.turns) ∧
      Answers (.pckDown 2) (fresh.setTurns (answer (.pckDown 2))).turns ∧ Silent fresh.turns :=
  ⟨⟨rfl, unbroken_nil, by decide, silent_nil _⟩, answers_answer _, silent_nil⟩
theorem witness_ProgrammableClockUnitsAreIndependent :
    (0 : Fin 3) ≠ pckUnit 2 ∧ NoReset fresh.turns ∧ (∃ t, exec (.dispck 2) fresh = .next t) ∧
      Turn.env (.pckUp 0) ∉ fresh.turns ∧ Turn.env (.pckDown 0) ∉ fresh.turns :=
  ⟨by decide, noReset_nil, ⟨_, rfl⟩, silent_nil _, silent_nil _⟩
/-- Coherent states of all three shapes of the sequencer. -/
theorem witness_EveryStepKeepsTheStateCoherent :
    Coherent gated ∧ Coherent waiting ∧ Coherent failed ∧ step waiting = .next waiting := by
  have empty : StoreLegal v0 [] := ⟨by decide, by simp⟩
  refine ⟨⟨by decide, store_legal, rfl⟩, ⟨by decide, empty, rfl, rfl, .swmain, by decide, by decide⟩,
    ⟨by decide, empty, .invalidPeripheralId, 1, by decide⟩, rfl⟩
theorem witness_CoherentStatesNeverStopWithAFault : Coherent waiting :=
  witness_EveryStepKeepsTheStateCoherent.2.1
theorem witness_ParametersNeverChange : ∃ t, step (told 0x01 [] fresh) = .next t := ⟨_, rfl⟩
/-- Two environments under which `SWMAIN` ends. -/
theorem witness_OutcomeDoesNotDependOnTheEnvironment :
    fresh.seq = .idle ∧ NoReset (answer .mckReady) ∧ NoReset [.go, .go, .env .lock, .env .mckReady] ∧
      seen (fun t => t.seq) (told 0x10 (answer .mckReady) fresh) = some .idle ∧
      seen (fun t => t.seq) (told 0x10 [.go, .go, .env .lock, .env .mckReady] fresh) = some .idle :=
  ⟨rfl, by simp [NoReset, answer], by simp [NoReset], by decide, by decide⟩
theorem witness_CommandsChangeOnlyTheirRegisters :
    NoReset fresh.turns ∧ (∃ t, exec .swmain fresh = .next t) ∧ ¬ mayChange .swmain .result ∧
      ¬ mayChange .swmain .pcr :=
  ⟨noReset_nil, ⟨_, rfl⟩, id, id⟩
theorem witness_CommandsWithoutAWaitEnd :
    ¬ CanHang (.disp 7) ∧ fresh.seq = .idle ∧ operandFault fresh.params (.disp 7) = none ∧ Unbroken fresh.turns :=
  ⟨id, rfl, by decide, unbroken_nil⟩
/-- Every command of the list at operands that pass. -/
theorem witness_UnansweredCommandsHang :
    fresh.seq = .idle ∧ Unbroken fresh.turns ∧ Silent fresh.turns ∧ (6 : Byte).toNat ≤ 6 ∧ (3 : Byte).toNat ≤ 3 ∧
      ((1 : Byte).toNat ≤ 1 ∧ bitField fresh.mckr 12 1 ≠ (1 : Byte).setWidth 1) ∧ bitField fresh.mckr 0 2 = 0 ∧
      fresh.pckrdy 2 = false ∧ (fresh.setSr 0x408).pckrdy 2 = true ∧ (7 : Byte).toNat < 8 :=
  ⟨rfl, unbroken_nil, silent_nil, by decide, by decide, by decide, by decide, by decide, by decide, by decide⟩
theorem witness_MemoisedWordWriters :
    fresh.seq = .idle ∧ NoReset fresh.turns ∧ ∃ t, exec .getmck fresh = .next t := ⟨rfl, noReset_nil, _, rfl⟩
theorem witness_RawWritesKeepTheMemoisedWord :
    fresh.seq = .idle ∧ HostsTurn (fresh.setTurns [.go, .env .lock]) [.env .lock] ∧
      (fresh.setScript [.write 0x20 4 3]).script = .write 0x20 4 3 :: [] ∧
      seen (fun t => t.mckcache) (((fresh.setMckcache 5).setScript [.write 0x20 4 3]).setTurns [.go]) = some 5 :=
  ⟨rfl, .inr rfl, rfl, by decide⟩
end Sys2Proof.Machine.Tests
end

section
/-! PROOFS. What every step can do, one case for each agent's move, and the rules that carry a property of the state over
the turns before a micro-operation (spec/10_state.md R24 to R31). -/

namespace Sys2Proof

/-! ## The word of a decoded command (R61, R63) -/

/-- A word with every field from `used` upwards zero is the word of its command, if the command's opcode and operand are
the fields below. -/
theorem encode_of_noOther {w : Word} {used : Nat} {i j : Instr} (h : noOther w used i = .ok j)
    (hused : used = 8 ∧ operandA i = 0 ∨ used = 16 ∧ operandA i = bitField w 8 8)
    (hop : (bitField w 0 8).toNat = (opcode i).toNat) (henc : encode i = formatC (opcode i) (operandA i) 0 0) :
    encode j = w := by
  obtain ⟨rfl, hzero⟩ := (noOther_ok _ _ _ _).1 h
  rw [henc]
  apply BitVec.eq_of_toNat_eq
  rw [formatC_toNat, ← hop, bitField_toNat]
  have hw := w.isLt
  have hb : (0 : Byte).toNat = 0 := rfl
  rcases hused with ⟨rfl, ha⟩ | ⟨rfl, ha⟩
  · rw [ha]
    omega
  · rw [ha, bitField_toNat]
    omega

/-- The word of the command that a word selects is that word. -/
theorem encode_of_decode {w : Word} {i : Instr} (h : decode w = .ok i) : encode i = w := by
  unfold decode at h
  dsimp only at h
  split at h
  case h_22 hop =>
    split at h
    · obtain rfl := Except.ok.inj h
      have hfield : bitField w 0 8 = 0x40 := BitVec.eq_of_toNat_eq hop
      calc encode (.cfgpck (bitField w 8 8) (bitField w 16 8) (bitField w 24 8))
          = formatC (bitField w 0 8) (bitField w 8 8) (bitField w 16 8) (bitField w 24 8) := by rw [hfield]; rfl
        _ = w := formatC_bitField w
    · simp at h
  case h_26 => simp at h
  all_goals
    rename_i hop
    exact encode_of_noOther h (by simp [operandA]) hop rfl

end Sys2Proof

namespace Sys2Proof.Machine

/-! ## What a register write and a micro-operation leave alone -/

/-- A register write leaves what is no register alone, and `FSR` and `MCKCACHE`, which no write changes (R49). -/
theorem writeReg_frame (r : Reg) (v : Word) (s : State) :
    (writeReg r v s).fsr = s.fsr ∧ (writeReg r v s).mckcache = s.mckcache ∧
      (writeReg r v s).params = s.params ∧ (writeReg r v s).turns = s.turns := by
  cases r with
  | pcr => simp [pcrWrite_eq]
  | _ => exact ⟨rfl, rfl, rfl, rfl⟩

/-- A register write lowers `MCKRDY` with `MCKR` and `LOCKA` with `PLLAR`; no other one changes `SR` (R25, R26). -/
theorem writeReg_sr_cases (r : Reg) (v : Word) (s : State) :
    (writeReg r v s).sr = s.sr ∨ (r = .mckr ∧ (writeReg r v s).sr = lowerBit s.sr mckrdyBit) ∨
      (r = .pllar ∧ (writeReg r v s).sr = lowerBit s.sr lockaBit) := by
  cases r with
  | mckr => exact .inr (.inl ⟨rfl, rfl⟩)
  | pllar => exact .inr (.inr ⟨rfl, rfl⟩)
  | pcr => exact .inl (by simp [pcrWrite_eq])
  | _ => exact .inl rfl

section
variable {i : Instr} {s u : State}

theorem Effect.turns (h : Effect i s u) : u.turns = s.turns := by
  cases h with
  | write r v t =>
    obtain ⟨_, _, _, hturns⟩ := writeReg_frame r v (s.setTemps t)
    rw [hturns, State.setTemps_turns]
  | result | forget | fill => rfl
  | temps t => exact State.setTemps_turns s t

theorem Effect.params (h : Effect i s u) : u.params = s.params := by
  cases h with
  | write r v t =>
    obtain ⟨_, _, hparams, _⟩ := writeReg_frame r v (s.setTemps t)
    rw [hparams, State.setTemps_params]
  | result | forget | fill => rfl
  | temps t => exact State.setTemps_params s t

theorem Effect.fsr (h : Effect i s u) : u.fsr = s.fsr := by
  cases h with
  | write r v t =>
    obtain ⟨hfsr, _⟩ := writeReg_frame r v (s.setTemps t)
    rw [hfsr, State.setTemps_fsr]
  | result | forget | fill => rfl
  | temps t => exact State.setTemps_fsr s t

/-- Everything a micro-operation can do to `SR`: nothing, or lower a bit with a register that the command may write. -/
theorem Effect.sr_cases (h : Effect i s u) :
    u.sr = s.sr ∨ (mayChange i .mckr ∧ u.sr = lowerBit s.sr mckrdyBit) ∨
      (mayChange i .pllar ∧ u.sr = lowerBit s.sr lockaBit) := by
  cases h with
  | write r v t may =>
    rcases writeReg_sr_cases r v (s.setTemps t) with hsr | ⟨rfl, hsr⟩ | ⟨rfl, hsr⟩
    · exact .inl (by rw [hsr, State.setTemps_sr])
    · exact .inr (.inl ⟨may, by rw [hsr, State.setTemps_sr]⟩)
    · exact .inr (.inr ⟨may, by rw [hsr, State.setTemps_sr]⟩)
  | result | forget | fill => exact .inl rfl
  | temps t => exact .inl (State.setTemps_sr s t)

/-- R29: the commands whose sequences fill the memoised word. -/
def FillsMemo (i : Instr) : Prop := i = .getmck ∨ i = .getcpu ∨ ∃ a, i = .getpclk a

/-- Everything a micro-operation can do to the memoised word (R29). -/
theorem Effect.mckcache_cases (h : Effect i s u) :
    u.mckcache = s.mckcache ∨ (u.mckcache = 0 ∧ mayChange i .mckcache ∧ ¬ mayChange i .result) ∨
      FillsMemo i := by
  cases h with
  | write r v t =>
    obtain ⟨_, hmemo, _⟩ := writeReg_frame r v (s.setTemps t)
    exact .inl (by rw [hmemo, State.setTemps_mckcache])
  | result => exact .inl rfl
  | forget may mutator => exact .inr (.inl ⟨rfl, may, mutator⟩)
  | fill query => exact .inr (.inr query)
  | temps t => exact .inl (State.setTemps_mckcache s t)

end

/-! ## What a step can do -/

/-- The agents' moves: what one step of the model can do to the state from which its turn and, where the host moves, the
access it serves have been taken (R7, R53). -/
inductive Move (s : State) : State → Prop where
  /-- Reset (R190). -/
  | reset : Move s (resetBlock s)
  /-- A step of the environment (R27). -/
  | env (e : EnvStep) : Move s (envStep e s)
  /-- A hold, or a host with no access left. -/
  | pass : Move s s
  /-- The host reads a register (R44). -/
  | read (off : Nat) : Move s (hostRead off s)
  /-- The host writes a register other than `CMD` (R45). -/
  | write (off : Nat) (v : Word) (notCmd : off ≠ 0) : Move s (hostWrite off v s)
  /-- The host writes a word to `CMD` that is no command (R65). -/
  | illegal (w : Word) : Move s (illegalCommand w s)
  /-- A command is written to `CMD` or goes on (R64, R66). -/
  | command {w : Word} {i : Instr} {t : State} (isCommand : decode w = .ok i) (runs : exec i s = .next t) : Move s t

/-- No register but `CMD` stands at an offset other than 0 (R41). -/
theorem regAt_ne_cmd {off : Nat} {r : Reg} (h : off ≠ 0) (hr : regAt off = some r) : r ≠ .cmd := by
  rintro rfl
  unfold regAt at hr
  split at hr <;> simp_all

/-- An access that is served is one of the host's moves. -/
theorem serveAccess_move {a : HostAccess} {s t : State} (h : serveAccess a s = .next t) : Move s t := by
  cases a with
  | read off width =>
    simp only [serveAccess] at h
    split at h
    · simp at h
    · obtain rfl := Host.Outcome.next.inj h
      exact .read off
  | write off width v =>
    simp only [serveAccess] at h
    split at h
    · simp at h
    · by_cases hoff : off = 0
      · rw [if_pos hoff, startWord] at h
        split at h
        next i hi => exact .command hi h
        next =>
          obtain rfl := Host.Outcome.next.inj h
          exact .illegal v
      · rw [if_neg hoff] at h
        obtain rfl := Host.Outcome.next.inj h
        exact .write off v hoff

/-- The host's turn takes at most the first access from its list. -/
theorem hostTurn_move {s t : State} (h : hostTurn s = .next t) : ∃ accesses, Move (s.setScript accesses) t := by
  unfold hostTurn at h
  split at h
  · obtain rfl := Host.Outcome.next.inj h
    exact ⟨s.script, .pass⟩
  next rest _ => exact ⟨rest, serveAccess_move h⟩

/-- Everything a step can do: some turn and some access are taken from their lists, and an agent moves. -/
theorem step_move {s t : State} (h : step s = .next t) :
    ∃ ts accesses, Move ((s.setTurns ts).setScript accesses) t := by
  unfold step at h
  split at h
  · unfold resumeWord at h
    split at h
    next ts _ =>
      obtain rfl := Host.Outcome.next.inj h
      exact ⟨ts, s.script, .reset⟩
    · split at h
      next i hi => exact ⟨s.turns, s.script, .command hi h⟩
      · simp at h
  all_goals
    unfold portTurn at h
    split at h
    · obtain ⟨accesses, hm⟩ := hostTurn_move h
      exact ⟨s.turns, accesses, hm⟩
    next ts _ =>
      obtain ⟨accesses, hm⟩ := hostTurn_move h
      exact ⟨ts, accesses, hm⟩
    next e ts _ =>
      obtain rfl := Host.Outcome.next.inj h
      exact ⟨ts, s.script, .env e⟩
    next ts _ =>
      obtain rfl := Host.Outcome.next.inj h
      exact ⟨ts, s.script, .reset⟩
    next ts _ =>
      obtain rfl := Host.Outcome.next.inj h
      exact ⟨ts, s.script, .pass⟩

/-! ## What an environment step does to SR (R27) -/

/-- The bit of `SR` that an environment step raises, if it raises one. -/
inductive EnvStep.Raises : EnvStep → Nat → Prop where
  | mckReady : Raises .mckReady mckrdyBit
  | lock : Raises .lock lockaBit
  | pckUp (n : Fin 3) : Raises (.pckUp n) (pckrdyBit n)

/-- Everything an environment step can do to `SR`: nothing, raise its bit, or, as `EnvPckDown(n)`, lower `PCKRDY[n]`. -/
theorem envStep_sr (e : EnvStep) (s : State) :
    (envStep e s).sr = s.sr ∨ (∃ i, e.Raises i ∧ (envStep e s).sr = raiseBit s.sr i) ∨
      ∃ n, e = .pckDown n ∧ (envStep e s).sr = lowerBit s.sr (pckrdyBit n) := by
  cases e with
  | mckReady =>
    simp only [envStep]
    split
    · exact .inl rfl
    · exact .inr (.inl ⟨_, .mckReady, rfl⟩)
  | lock =>
    simp only [envStep]
    split
    · exact .inl rfl
    · exact .inr (.inl ⟨_, .lock, rfl⟩)
  | pckUp n =>
    simp only [envStep]
    split
    · exact .inr (.inl ⟨_, .pckUp n, rfl⟩)
    · exact .inl rfl
  | pckDown n =>
    simp only [envStep]
    split
    · exact .inr (.inr ⟨n, rfl, rfl⟩)
    · exact .inl rfl

/-- The induction over the turns before a micro-operation, once: what the environment's steps among them keep, what a
reset among them keeps, and what does not depend on the turns left over, `await` keeps. -/
theorem await_keeps (P : State → Prop) (c : State → Bool) (ts : List Turn) (s : State)
    (env : ∀ e, .env e ∈ ts → ∀ u, P u → P (envStep e u))
    (reset : .reset ∈ ts → ∀ u, P u → P (resetBlock u))
    (turns : ∀ u ts', P u → P (u.setTurns ts')) (h : P s) : P (await c ts s).2 := by
  induction ts generalizing s with
  | nil => exact turns s [] h
  | cons t ts ih =>
    have ih := fun u => ih u (fun e he => env e (List.mem_cons_of_mem _ he))
      fun hr => reset (List.mem_cons_of_mem _ hr)
    cases t with
    | go =>
      rw [await_go]
      split
      · exact turns s ts h
      · exact ih s h
    | env e => exact ih _ (env e (by simp) s h)
    | reset => exact turns _ ts (reset (by simp) s h)
    | hold => exact turns s ts h

end Sys2Proof.Machine
end

section
/-! PROOFS. Coherence is kept: by each write of a register, by each micro-operation, by a whole command, by every step
(spec/10_state.md R20, R21, R24, R30). -/

namespace Sys2Proof.Machine

/-! ## The named bits of SR (R24) -/

/-- Lowering a bit leaves the unnamed bits 0. -/
theorem lowerBit_named {w : Word} (i : Nat) (h : w &&& ~~~srMask = 0) : lowerBit w i &&& ~~~srMask = 0 := by
  rw [lowerBit, BitVec.and_assoc, BitVec.and_comm (~~~_), ← BitVec.and_assoc, h]
  exact BitVec.zero_and

/-- Raising a named bit leaves the unnamed bits 0. -/
theorem raiseBit_named {w : Word} {i : Nat} (h : w &&& ~~~srMask = 0) (hi : 1#32 <<< i &&& ~~~srMask = 0) :
    raiseBit w i &&& ~~~srMask = 0 := by
  rw [raiseBit, BitVec.and_comm, BitVec.and_or_distrib_left, BitVec.and_comm _ w, h, BitVec.and_comm, hi]
  rfl

/-- The environment raises named bits only. -/
theorem EnvStep.Raises.named {e : EnvStep} {i : Nat} (h : e.Raises i) : 1#32 <<< i &&& ~~~srMask = 0 := by
  cases h with
  | mckReady => decide
  | lock => decide
  | pckUp n => revert n; decide

/-- An environment step leaves the unnamed bits 0. -/
theorem envStep_named (e : EnvStep) {s : State} (h : s.sr &&& ~~~srMask = 0) :
    (envStep e s).sr &&& ~~~srMask = 0 := by
  rcases envStep_sr e s with hsr | ⟨i, hi, hsr⟩ | ⟨n, _, hsr⟩
  · rwa [hsr]
  · rw [hsr]
    exact raiseBit_named h hi.named
  · rw [hsr]
    exact lowerBit_named _ h

/-! ## The store (R21) -/

/-- The word of a valid ID under the mask keeps the store legal. -/
theorem StoreLegal.storeWrite {p : Params} {m : PeriphStore} (h : StoreLegal p m) {id : Nat}
    (hid : validId p id = true) (v : Word) : StoreLegal p (storeWrite id (v &&& cfgMask) m) := by
  refine ⟨storeWrite_wf id _ h.1, fun e he => ?_⟩
  rcases mem_storeWrite he with ⟨rfl, _⟩ | he
  · refine ⟨hid, ?_⟩
    show v &&& cfgMask &&& ~~~cfgMask = 0
    rw [BitVec.and_assoc, show cfgMask &&& ~~~cfgMask = 0 by decide]
    exact BitVec.and_zero
  · exact h.2 e he

/-! ## SEQ, CMD and FSR (R30, R64, R173): one equation per shape of the sequencer -/

theorem seqLegal_idle {s : State} (h : s.seq = .idle) : SeqLegal s ↔ s.fsr = 0 := by
  simp [SeqLegal, h]

theorem seqLegal_run {s : State} {w : Word} {k : Nat} {t : Temps} (h : s.seq = .run w k t) :
    SeqLegal s ↔ s.fsr = 0 ∧ s.cmd = w ∧ ∃ i, decode w = .ok i ∧ operandFault s.params i = none := by
  simp [SeqLegal, h]

theorem seqLegal_faulted {s : State} (h : s.seq = .faulted) :
    SeqLegal s ↔ ∃ c info, s.fsr = faultStatus 0 c info := by
  simp [SeqLegal, h]

/-- Neither the index nor the temporaries of a running command matter. -/
theorem SeqLegal.setSeq_run {s : State} {w : Word} {k : Nat} {t : Temps} (hs : s.seq = .run w k t) (h : SeqLegal s)
    (k' : Nat) (t' : Temps) : SeqLegal (s.setSeq (.run w k' t')) :=
  (seqLegal_run hs).1 h

/-! ## The updates of the state -/

section
variable {s : State}

theorem Coherent.setSr (h : Coherent s) {v : Word} (hv : v &&& ~~~srMask = 0) : Coherent (s.setSr v) :=
  ⟨hv, h.2⟩

theorem Coherent.setPeriph (h : Coherent s) {m : PeriphStore} (hm : StoreLegal s.params m) :
    Coherent (s.setPeriph m) :=
  ⟨h.1, hm, h.2.2⟩

theorem Coherent.setTemps (h : Coherent s) (t : Temps) : Coherent (s.setTemps t) := by
  unfold State.setTemps
  split
  next hs => exact ⟨h.1, h.2.1, h.2.2.setSeq_run hs _ t⟩
  · exact h
  · exact h

theorem Coherent.setIndex (h : Coherent s) (k : Nat) : Coherent (s.setIndex k) := by
  unfold State.setIndex
  split
  next hs => exact ⟨h.1, h.2.1, h.2.2.setSeq_run hs k _⟩
  · exact h
  · exact h

/-- While no fault is recorded the sequencer may go to IDLE. -/
theorem Coherent.setSeq_idle (h : Coherent s) (hf : s.fsr = 0) : Coherent (s.setSeq .idle) :=
  ⟨h.1, h.2.1, hf⟩

/-- R30: in IDLE no fault is recorded. -/
theorem Coherent.fsr_of_idle (h : Coherent s) (hs : s.seq = .idle) : s.fsr = 0 := (seqLegal_idle hs).1 h.2.2

/-- R30: while a command runs no fault is recorded. -/
theorem Coherent.fsr_of_run (h : Coherent s) {w : Word} {k : Nat} {t : Temps} (hs : s.seq = .run w k t) :
    s.fsr = 0 := ((seqLegal_run hs).1 h.2.2).1

theorem Coherent.envStep (h : Coherent s) (e : EnvStep) : Coherent (envStep e s) := by
  rw [envStep_eq]
  exact h.setSr (envStep_named e h.1)

/-- A write of the window commits words of valid IDs only (R48). -/
theorem Coherent.pcrWrite (h : Coherent s) (v : Word) : Coherent (pcrWrite v s) := by
  unfold Machine.pcrWrite
  split
  next hc => exact Coherent.setPeriph (s := s.setPcrSel _) h (h.2.1.storeWrite (Bool.and_eq_true_iff.1 hc).2 v)
  · exact h

/-- A write of any register but `CMD` keeps coherence, in every state of the sequencer. -/
theorem Coherent.writeReg (h : Coherent s) {r : Reg} (hr : r ≠ .cmd) (v : Word) : Coherent (writeReg r v s) := by
  cases r with
  | cmd => exact absurd rfl hr
  | mckr => exact Coherent.setSr (s := s.setMckr v) h (lowerBit_named _ h.1)
  | pllar => exact Coherent.setSr (s := s.setPllar v) h (lowerBit_named _ h.1)
  | pcr => exact h.pcrWrite v
  | _ => exact h

/-- A fault taken in IDLE records its one cause in a clear `FSR` (R173). -/
theorem Coherent.raiseFault (h : Coherent s) (hs : s.seq = .idle) (c : Cause) (info : Byte) (w : Word) :
    Coherent (raiseFault c info (s.setCmd w)) := by
  refine ⟨h.1, h.2.1, c, info, ?_⟩
  show faultStatus s.fsr c info = _
  rw [h.fsr_of_idle hs]

/-- The state after reset is coherent with any parameters and whatever the other agents will do. -/
theorem coherent_resetBlock (s : State) : Coherent (resetBlock s) :=
  ⟨by rw [resetBlock_sr]; decide, ⟨by rw [resetBlock_periph]; decide, by simp⟩, resetBlock_fsr s⟩

/-- A command that passes its check starts from a coherent state. -/
theorem Coherent.start (h : Coherent s) (hs : s.seq = .idle) {i : Instr} (hd : decode (encode i) = .ok i)
    (hc : operandFault s.params i = none) : Coherent ((s.setCmd (encode i)).setSeq (.run (encode i) 0 {})) :=
  ⟨h.1, h.2.1, h.fsr_of_idle hs, rfl, i, hd, hc⟩

end

/-! ## Micro-operations, commands, steps -/

/-- A coherent state in which no fault is recorded: what the engine keeps while it works on a command. -/
def Working (s : State) : Prop := Coherent s ∧ s.fsr = 0

theorem Working.effect {i : Instr} {s u : State} (h : Working s) (he : Effect i s u) : Working u := by
  refine ⟨?_, by rw [he.fsr]; exact h.2⟩
  cases he with
  | write r v t _ hr => exact (h.1.setTemps t).writeReg hr v
  | result | forget | fill => exact h.1
  | temps t => exact h.1.setTemps t

theorem Working.setIndex {s : State} (h : Working s) (k : Nat) : Working (s.setIndex k) :=
  ⟨h.1.setIndex k, by rw [State.setIndex_fsr]; exact h.2⟩

theorem Working.await {s : State} (h : Working s) (c : State → Bool) (ts : List Turn) : Working (await c ts s).2 :=
  await_keeps Working c ts s
    (fun e _ u hu => ⟨hu.1.envStep e, by rw [envStep_eq]; exact hu.2⟩)
    (fun _ u _ => ⟨coherent_resetBlock u, resetBlock_fsr u⟩)
    (fun _ _ hu => hu) h

/-- A command keeps coherence, in every state of the sequencer. -/
theorem Coherent.exec {i : Instr} {s t : State} (h : Coherent s) (hd : decode (encode i) = .ok i)
    (he : exec i s = .next t) : Coherent t := by
  rcases exec_keeps i Working (fun c s hs => hs.await c s.turns) (fun s u hu k hs => (hs.effect hu).setIndex k)
      (fun s k hs => hs.setIndex k) (fun s hs => ⟨hs.1.setSeq_idle hs.2, hs.2⟩) s t he with
    ⟨hs, c, _, rfl⟩ | rfl | ⟨hs, hc, run⟩ | ⟨⟨k, u, hs⟩, run⟩
  · exact h.raiseFault hs c _ _
  · exact h
  · exact (run ⟨h.start hs hd hc, h.fsr_of_idle hs⟩).1
  · exact (run ⟨h, h.fsr_of_run hs⟩).1

theorem Coherent.illegalCommand {s : State} (h : Coherent s) (w : Word) : Coherent (illegalCommand w s) := by
  unfold Machine.illegalCommand
  split
  next hs => exact h.raiseFault hs _ _ w
  · exact h
  · exact h

theorem Coherent.hostWrite {s : State} (h : Coherent s) {off : Nat} (hoff : off ≠ 0) (v : Word) :
    Coherent (hostWrite off v s) := by
  unfold Machine.hostWrite
  split
  · exact h
  · split
    next r hr => exact h.writeReg (regAt_ne_cmd hoff hr) v
    · exact h

theorem Coherent.hostRead {s : State} (h : Coherent s) (off : Nat) : Coherent (hostRead off s) := by
  unfold Machine.hostRead
  split <;> exact h

/-- Every agent's move keeps coherence. -/
theorem Coherent.move {s t : State} (h : Coherent s) (hm : Move s t) : Coherent t := by
  cases hm with
  | reset => exact coherent_resetBlock s
  | env e => exact h.envStep e
  | pass => exact h
  | read off => exact h.hostRead off
  | write off v hoff => exact h.hostWrite hoff v
  | illegal w => exact h.illegalCommand w
  | command hd he => exact h.exec (by rw [encode_of_decode hd]; exact hd) he

/-- Settles O51: some agent moves, and every agent's move keeps coherence. -/
theorem everyStepKeepsTheStateCoherent : Obligations.EveryStepKeepsTheStateCoherent := by
  intro s t h hstep
  obtain ⟨ts, accesses, hm⟩ := step_move hstep
  exact Coherent.move (s := (s.setTurns ts).setScript accesses) h hm

/-- Settles O52. -/
theorem resetStateIsCoherent : Obligations.ResetStateIsCoherent :=
  coherent_resetBlock State.reset

end Sys2Proof.Machine
end

section
/-! PROOFS. What reset sets, what no step changes, and who moves a status bit or the memoised word (spec/10_state.md R24 to
R32). -/

namespace Sys2Proof.Machine

/-! ## Reset (R31, R190) -/

/-- Settles O20. -/
theorem resetStateHoldsTheResetValues : Obligations.ResetStateHoldsTheResetValues :=
  ⟨rfl, rfl, rfl, rfl, rfl, rfl, rfl, rfl, rfl, rfl, rfl, rfl, rfl, fun _ => rfl, rfl, by decide⟩

/-- A reset whose turn it is comes first, in every state of the sequencer. -/
theorem step_reset {s : State} {ts : List Turn} (h : s.turns = .reset :: ts) :
    step s = .next (resetBlock (s.setTurns ts)) := by
  cases hs : s.seq with
  | idle => simp only [step, hs, portTurn, h]
  | run w k t => simp only [step, hs, resumeWord, h]
  | faulted => simp only [step, hs, portTurn, h]

/-- Without a command in progress no access waits, and reset drops none. -/
theorem resetBlock_script_keep {s : State} (h : s.seq = .idle ∨ s.seq = .faulted) :
    (resetBlock s).script = s.script := by
  rcases h with h | h <;> simp [resetBlock, h]

/-- Behind a command in progress the first access waits, and reset drops it. -/
theorem resetBlock_script_drop {s : State} {w : Word} {k : Nat} {t : Temps} (h : s.seq = .run w k t) :
    (resetBlock s).script = s.script.tail := by
  simp [resetBlock, h]

/-- Settles O19: a reset gives the registers of the reset state. -/
theorem resetSetsEveryRegister : Obligations.ResetSetsEveryRegister := by
  intro s ts h
  obtain ⟨hseq, hfsr, hmemo, hsr, hcmd, harg0, harg1, hres, hmckr, hpllar, hcpr, hoscr, hsel, hper, henr, hpck⟩ :=
    resetStateHoldsTheResetValues
  refine ⟨_, step_reset h, hseq, hfsr, hmemo, hsr, hcmd, harg0, harg1, hres, hmckr, hpllar, hcpr, hoscr, hsel, hper,
    henr, hpck, rfl, rfl, rfl, fun hs => resetBlock_script_keep (s := s.setTurns ts) hs, ?_⟩
  rintro ⟨w, k, u, hs⟩
  exact resetBlock_script_drop (s := s.setTurns ts) hs

/-! ## The parameters (R32, R191) -/

/-- No agent's move changes the parameters. -/
theorem Move.params {s t : State} (h : Move s t) : t.params = s.params := by
  cases h with
  | reset => rfl
  | env e => rw [envStep_eq]; rfl
  | pass => rfl
  | read off => unfold hostRead; split <;> rfl
  | write off v =>
    unfold hostWrite
    split
    · rfl
    · split
      next r _ =>
        obtain ⟨_, _, hparams, _⟩ := writeReg_frame r v s
        exact hparams
      · rfl
  | illegal w => unfold illegalCommand; split <;> rfl
  | @command _ i _ _ runs =>
    rcases exec_keeps i (fun u => u.params = s.params)
        (fun c u hu => await_keeps (fun u => u.params = s.params) c _ u
          (fun e _ u hu => by rw [envStep_eq]; exact hu) (fun _ _ hu => hu) (fun _ _ hu => hu) hu)
        (fun u v he k hu => by rw [State.setIndex_params, he.params, hu])
        (fun u k hu => by rw [State.setIndex_params, hu]) (fun _ hu => hu) s t runs with
      ⟨_, c, _, rfl⟩ | rfl | ⟨_, _, run⟩ | ⟨_, run⟩
    · rfl
    · rfl
    · exact run rfl
    · exact run rfl

/-- Settles O54: some agent moves, and no agent's move changes the parameters. -/
theorem parametersNeverChange : Obligations.ParametersNeverChange := by
  intro s t h
  obtain ⟨ts, accesses, hm⟩ := step_move h
  exact hm.params

/-! ## The environment's steps and the ready bits (R25 to R27) -/

/-- Settles O21: each step under its guard, and without it. -/
theorem environmentSteps : Obligations.EnvironmentSteps := by
  intro s n
  refine ⟨?_, rfl, rfl, ?_, ?_⟩
  · rintro e ts (hs | hs) hts <;> simp only [step, hs, portTurn, hts]
  · by_cases hg : bitSet s.sr (8 + n.val) = false ∧ bitSet s.pckenr n.val = true
    · rw [if_pos hg]
      exact envStep_pckUp hg.1 hg.2
    · rw [if_neg hg]
      exact if_neg (by simpa [State.pckrdy, State.pcken, pckrdyBit] using hg)
  · by_cases hg : bitSet s.sr (8 + n.val) = true ∧ bitSet s.pckenr n.val = false
    · rw [if_pos hg]
      exact envStep_pckDown hg.1 hg.2
    · rw [if_neg hg]
      exact if_neg (by simpa [State.pckrdy, State.pcken, pckrdyBit] using hg)

/-- A lowered bit reads 0 and every other bit as before. -/
theorem bitSet_lowerBit_ite (w : Word) {i j : Nat} (hj : j < 32) :
    bitSet (lowerBit w i) j = if j = i then false else bitSet w j := by
  split
  next h => rw [h]; exact lowerBit_self w (h ▸ hj)
  next h => exact lowerBit_other w hj h

/-- Settles O22. -/
theorem writesLowerTheReadyBits : Obligations.WritesLowerTheReadyBits :=
  fun s _ _ hj => ⟨bitSet_lowerBit_ite s.sr hj, bitSet_lowerBit_ite s.sr hj⟩

theorem mckrdyBit_ne_lockaBit : mckrdyBit ≠ lockaBit := by decide
theorem mckrdyBit_ne_pckrdyBit (n : Fin 3) : mckrdyBit ≠ pckrdyBit n := by
  obtain ⟨_, h, _⟩ := status_places n n
  exact h
theorem lockaBit_ne_pckrdyBit (n : Fin 3) : lockaBit ≠ pckrdyBit n := by
  obtain ⟨_, _, h, _⟩ := status_places n n
  exact h
theorem pckrdyBit_injective {n m : Fin 3} (h : pckrdyBit n = pckrdyBit m) : n = m :=
  Fin.ext (Nat.add_left_cancel h)

/-- No two environment steps raise the same bit. -/
theorem EnvStep.Raises.unique {e e' : EnvStep} {i j : Nat} (h : e.Raises i) (h' : e'.Raises j) (hij : i = j) :
    e = e' := by
  cases h with
  | mckReady =>
    cases h' with
    | mckReady => rfl
    | lock => exact absurd hij mckrdyBit_ne_lockaBit
    | pckUp m => exact absurd hij (mckrdyBit_ne_pckrdyBit m)
  | lock =>
    cases h' with
    | mckReady => exact absurd hij.symm mckrdyBit_ne_lockaBit
    | lock => rfl
    | pckUp m => exact absurd hij (lockaBit_ne_pckrdyBit m)
  | pckUp n =>
    cases h' with
    | mckReady => exact absurd hij.symm (mckrdyBit_ne_pckrdyBit n)
    | lock => exact absurd hij.symm (lockaBit_ne_pckrdyBit n)
    | pckUp m => rw [pckrdyBit_injective hij]

/-- The turns left over are some of `ts`, and `SR` has the property `Q`: what a command keeps while the environment takes
the steps of `ts`. -/
def SrKept (ts : List Turn) (Q : Word → Prop) (u : State) : Prop := (∀ x ∈ u.turns, x ∈ ts) ∧ Q u.sr

/-- A property of `SR` that the environment's listed steps keep, and the lowering of a bit with a register that the
command may write, the command keeps. -/
theorem exec_keeps_sr {i : Instr} {s t : State} (Q : Word → Prop) (hr : NoReset s.turns)
    (env : ∀ e, .env e ∈ s.turns → ∀ u : State, Q u.sr → Q (envStep e u).sr)
    (mckr : mayChange i .mckr → ∀ w, Q w → Q (lowerBit w mckrdyBit))
    (pllar : mayChange i .pllar → ∀ w, Q w → Q (lowerBit w lockaBit))
    (he : exec i s = .next t) (h : Q s.sr) : Q t.sr := by
  have turns (c : State → Bool) (u : State) (hu : SrKept s.turns Q u) :
      SrKept s.turns Q (await c u.turns u).2 := by
    have hru : Turn.reset ∉ u.turns := fun m => hr (hu.1 _ m)
    refine ⟨fun x hx => hu.1 x ((await_noReset c u.turns u hru).2 x hx), ?_⟩
    exact await_keeps (fun v => Q v.sr) c u.turns u (fun e m v hv => env e (hu.1 _ m) v hv)
      (fun m => absurd m hru) (fun _ _ hv => hv) hu.2
  have effects (u v : State) (hv : Effect i u v) (k : Nat) (hu : SrKept s.turns Q u) :
      SrKept s.turns Q (v.setIndex k) := by
    refine ⟨by rw [State.setIndex_turns, hv.turns]; exact hu.1, ?_⟩
    rw [State.setIndex_sr]
    rcases hv.sr_cases with hsr | ⟨may, hsr⟩ | ⟨may, hsr⟩ <;> rw [hsr]
    · exact hu.2
    · exact mckr may _ hu.2
    · exact pllar may _ hu.2
  rcases exec_keeps i (SrKept s.turns Q) turns effects
      (fun u k hu => ⟨by rw [State.setIndex_turns]; exact hu.1, by rw [State.setIndex_sr]; exact hu.2⟩)
      (fun _ hu => hu) s t he with ⟨_, c, _, rfl⟩ | rfl | ⟨_, _, run⟩ | ⟨_, run⟩
  · exact h
  · exact h
  · exact (run ⟨fun _ hx => hx, h⟩).2
  · exact (run ⟨fun _ hx => hx, h⟩).2

/-- A low status bit stays low without the environment step that raises it. -/
theorem exec_keeps_low {i : Instr} {s t : State} {b : Nat} (hb : b < 32) (hr : NoReset s.turns)
    (env : ∀ e, .env e ∈ s.turns → ¬ e.Raises b) (he : exec i s = .next t) (h : bitSet s.sr b = false) :
    bitSet t.sr b = false := by
  have lower (j : Nat) (w : Word) (hw : bitSet w b = false) : bitSet (lowerBit w j) b = false := by
    rw [bitSet_lowerBit w hb, hw, Bool.and_false]
  refine exec_keeps_sr (fun w => bitSet w b = false) hr (fun e m u hu => ?_) (fun _ => lower _) (fun _ => lower _) he h
  rcases envStep_sr e u with hsr | ⟨j, hj, hsr⟩ | ⟨n, _, hsr⟩ <;> rw [hsr]
  · exact hu
  · rw [raiseBit_other _ hb fun hbj => env e m (hbj ▸ hj)]
    exact hu
  · exact lower _ _ hu

/-- A high status bit stays high without the environment step and without the register write that lower it. -/
theorem exec_keeps_high {i : Instr} {s t : State} {b : Nat} (hb : b < 32) (hr : NoReset s.turns)
    (env : ∀ n, .env (.pckDown n) ∈ s.turns → b ≠ pckrdyBit n) (mckr : mayChange i .mckr → b ≠ mckrdyBit)
    (pllar : mayChange i .pllar → b ≠ lockaBit) (he : exec i s = .next t) (h : bitSet s.sr b = true) :
    bitSet t.sr b = true := by
  have lower (j : Nat) (hj : b ≠ j) (w : Word) (hw : bitSet w b = true) : bitSet (lowerBit w j) b = true := by
    rw [lowerBit_other w hb hj, hw]
  refine exec_keeps_sr (fun w => bitSet w b = true) hr (fun e m u hu => ?_) (fun may => lower _ (mckr may))
    (fun may => lower _ (pllar may)) he h
  rcases envStep_sr e u with hsr | ⟨j, _, hsr⟩ | ⟨n, rfl, hsr⟩ <;> rw [hsr]
  · exact hu
  · rw [bitSet_raiseBit _ hb, hu, Bool.or_true]
  · exact lower _ (env n m) _ hu

/-- A status bit that a command finds low and leaves high was raised by the environment step that raises it. -/
theorem exec_rise {i : Instr} {s t : State} {e : EnvStep} {b : Nat} (hb : b < 32) (hr : NoReset s.turns)
    (he : exec i s = .next t) (hraise : e.Raises b) (habsent : .env e ∉ s.turns) (h : bitSet t.sr b = true) :
    bitSet s.sr b = true := by
  by_contra hlow
  have hstill : bitSet t.sr b = false :=
    exec_keeps_low hb hr (fun e' m hr' => habsent (hr'.unique hraise rfl ▸ m)) he (by simpa using hlow)
  rw [hstill] at h
  exact Bool.noConfusion h

/-- Settles O23: rises by `exec_rise`, falls by `exec_keeps_high`. -/
theorem statusBitsMoveOnlyByTheirCauses : Obligations.StatusBitsMoveOnlyByTheirCauses := by
  intro i s t n hr he
  refine ⟨exec_rise mckrdyBit_lt hr he .mckReady, exec_rise lockaBit_lt hr he .lock,
    exec_rise (pckrdyBit_lt n) hr he (.pckUp n), fun absent => ?_, fun no => ?_, fun no => ?_⟩
  · exact exec_keeps_high (pckrdyBit_lt n) hr (fun m hm hnm => absent (pckrdyBit_injective hnm ▸ hm))
      (fun _ => (mckrdyBit_ne_pckrdyBit n).symm) (fun _ => (lockaBit_ne_pckrdyBit n).symm) he
  · exact exec_keeps_high mckrdyBit_lt hr (fun m _ => mckrdyBit_ne_pckrdyBit m) (fun may => absurd may no)
      (fun _ => mckrdyBit_ne_lockaBit) he
  · exact exec_keeps_high lockaBit_lt hr (fun m _ => lockaBit_ne_pckrdyBit m)
      (fun _ => mckrdyBit_ne_lockaBit.symm) (fun may => absurd may no) he

end Sys2Proof.Machine
end

section
/-! PROOFS. Who writes the memoised word (spec/10_state.md R29, spec/40_frequency_derivation.md R87 to R90). -/

namespace Sys2Proof.Machine

/-- The memoised word has the property `M` and no reset is to come: what a command keeps. -/
def MemoKept (M : Word → Prop) (u : State) : Prop := NoReset u.turns ∧ M u.mckcache

/-- Without a reset among them the turns before a micro-operation leave the memoised word alone, and the master clock that
would be derived. -/
theorem await_memo (c : State → Bool) {s : State} (hr : NoReset s.turns) :
    NoReset (await c s.turns s).2.turns ∧ (await c s.turns s).2.mckcache = s.mckcache ∧
      mckCompute (await c s.turns s).2 = mckCompute s := by
  obtain ⟨hframe, hsub⟩ := await_noReset c s.turns s hr
  refine ⟨fun m => hr (hsub _ m), ?_, ?_⟩ <;> rw [hframe] <;> rfl

/-- The turns keep what is said of the memoised word. -/
theorem MemoKept.await {M : Word → Prop} {u : State} (hu : MemoKept M u) (c : State → Bool) :
    MemoKept M (await c u.turns u).2 := by
  obtain ⟨hr, hmemo, _⟩ := await_memo c hu.1
  exact ⟨hr, by rw [hmemo]; exact hu.2⟩

theorem MemoKept.setIndex {M : Word → Prop} {u : State} (hu : MemoKept M u) (k : Nat) : MemoKept M (u.setIndex k) :=
  ⟨by rw [State.setIndex_turns]; exact hu.1, by rw [State.setIndex_mckcache]; exact hu.2⟩

/-! ## The commands that fill the memoised word -/

/-- Micro-operations that only leave a value in `RESULT` or the temporaries, as those of `GETSLCK` do, leave the memoised
word alone. -/
theorem run_keeps_memo {ms : List Micro} (hms : EffectsOf .getslck ms) (k : Nat) {s : State} (hr : NoReset s.turns) :
    (run ms 0 k s).mckcache = s.mckcache := by
  refine (run_keeps (MemoKept (· = s.mckcache)) ms (fun c _ hu => hu.await c) (fun f hf u j hu => ?_)
    (fun _ j hu => hu.setIndex j) (fun _ hu => hu) 0 k s ⟨hr, rfl⟩).2
  have effect := hms f hf u
  refine MemoKept.setIndex (u := f u) ⟨by rw [effect.turns]; exact hu.1, ?_⟩ j
  rcases effect.mckcache_cases with hsame | ⟨_, no, _⟩ | no
  · exact hsame.trans hu.2
  · exact no.elim
  · simp [FillsMemo] at no

/-- R87: a call of `GETMCK` leaves the memoised word, or fills a word of 0 with the derived master clock. -/
theorem run_callGetmck_memo {dest : Micro} {rest : List Micro} (hrest : EffectsOf .getslck (dest :: rest)) (k : Nat)
    {s : State} (hr : NoReset s.turns) :
    (run (callGetmck dest ++ rest) 0 k s).mckcache = s.mckcache ∨
      ((run (callGetmck dest ++ rest) 0 k s).mckcache = mckCompute s ∧ s.mckcache = 0) := by
  rw [callGetmck, List.cons_append, run_ifThen]
  by_cases hc : s.mckcache = 0
  · obtain ⟨hru, hmemo, hmck⟩ := await_memo (fun _ => true) hr
    rw [if_pos (by simpa using hc), List.cons_append, run_act]
    split
    · refine .inr ⟨?_, hc⟩
      rw [List.cons_append, List.nil_append, run_keeps_memo hrest _ (by rwa [State.setIndex_turns]),
        State.setIndex_mckcache, State.setMckcache_mckcache, hmck]
    · exact .inl hmemo
  · rw [if_neg (by simpa using hc), List.cons_append, run_skip, List.cons_append, List.nil_append]
    exact .inl (run_keeps_memo hrest _ hr)

/-- The sequences of `GETMCK`, `GETCPU` and `GETPCLK`: a call of `GETMCK` and what is done with its value, or, for a
peripheral without a divisor, no call. -/
theorem exec_query {i : Instr} (hq : FillsMemo i) :
    ∃ sq : Params → List Micro, (∀ s, exec i s = .next (runCommand i (sq s.params) s)) ∧
      ∀ p, EffectsOf .getslck (sq p) ∨
        ∃ dest rest, sq p = callGetmck dest ++ rest ∧ EffectsOf .getslck (dest :: rest) := by
  have kept (v : State → Word) : EffectsOf .getslck (microKeepMck :: [microRes v, .done]) :=
    .append (.keepMck _) (.resDone v trivial)
  rcases hq with rfl | rfl | ⟨a, rfl⟩
  · exact ⟨fun _ => seqGetmck, fun _ => rfl, fun _ => .inr ⟨_, _, rfl, .resDone _ trivial⟩⟩
  · exact ⟨fun _ => seqGetcpu, fun _ => rfl, fun _ => .inr ⟨_, _, rfl, kept _⟩⟩
  · refine ⟨fun p => seqGetpclk p a, fun _ => rfl, fun p => ?_⟩
    by_cases hdiv : p.divisor a.toNat = 0
    · exact .inl (by simp only [seqGetpclk, hdiv, if_true]; exact .resDone _ trivial)
    · exact .inr ⟨_, _, by simp only [seqGetpclk, hdiv, if_false]; rfl, kept _⟩

/-- A query started in IDLE leaves the memoised word, or fills a word of 0 with the derived master clock. -/
theorem exec_query_memo {i : Instr} (hq : FillsMemo i) {s t : State}
    (hs : s.seq = .idle) (hr : NoReset s.turns) (he : exec i s = .next t) :
    t.mckcache = s.mckcache ∨ (t.mckcache = mckCompute s ∧ s.mckcache = 0) := by
  obtain ⟨sq, hsq, hshape⟩ := exec_query hq
  rw [hsq] at he
  obtain rfl := Host.Outcome.next.inj he
  cases hc : operandFault s.params i with
  | some c => exact .inl (by rw [runCommand_fault hs hc]; rfl)
  | none =>
    rw [runCommand_idle hs hc]
    rcases hshape s.params with hnone | ⟨dest, rest, hcall, hrest⟩
    · exact .inl (run_keeps_memo hnone 0 hr)
    · rw [hcall]
      exact run_callGetmck_memo hrest 0 hr

/-! ## The other commands -/

/-- The word `w` is the `old` one, or command `i` is an invalidating one (R90) and it is 0. -/
def LeftOrForgotten (i : Instr) (old w : Word) : Prop :=
  w = old ∨ (w = 0 ∧ mayChange i .mckcache ∧ ¬ mayChange i .result)

/-- A command that is none of those three leaves the memoised word, or forgets it and is one of the invalidating ones. -/
theorem exec_forgets {i : Instr} (hq : ¬ FillsMemo i) {s t : State}
    (hr : NoReset s.turns) (he : exec i s = .next t) :
    LeftOrForgotten i s.mckcache t.mckcache := by
  have effects (u v : State) (effect : Effect i u v) (k : Nat) (hu : MemoKept (LeftOrForgotten i s.mckcache) u) :
      MemoKept (LeftOrForgotten i s.mckcache) (v.setIndex k) := by
    refine MemoKept.setIndex (u := v) ⟨by rw [effect.turns]; exact hu.1, ?_⟩ k
    rcases effect.mckcache_cases with hsame | forgotten | query
    · exact hsame ▸ hu.2
    · exact .inr forgotten
    · exact absurd query hq
  rcases exec_keeps i _ (fun c _ hu => hu.await c) effects (fun _ k hu => hu.setIndex k) (fun _ hu => hu) s t he with
    ⟨_, c, _, rfl⟩ | rfl | ⟨_, _, run⟩ | ⟨_, run⟩
  · exact .inl rfl
  · exact .inl rfl
  · exact (run ⟨hr, .inl rfl⟩).2
  · exact (run ⟨hr, .inl rfl⟩).2

/-- Settles O59: the three queries fill, every other command at most forgets. -/
theorem memoisedWordWriters : Obligations.MemoisedWordWriters := by
  intro i s t hs hr he
  by_cases hq : FillsMemo i
  · rcases exec_query_memo hq hs hr he with hsame | ⟨hfill, hzero⟩
    · exact .inl hsame
    · exact .inr (.inr ⟨hfill, hzero, hq⟩)
  · rcases exec_forgets hq hr he with hsame | hforget
    · exact .inl hsame
    · exact .inr (.inl hforget)

end Sys2Proof.Machine
end

section
/-! PROOFS. The host port between two commands: which access is served, what it reads, what it writes, and the PCR window
(spec/20_memory.md R41 to R51). -/

namespace Sys2Proof.Machine

/-! ## An access at the port (R42, R44 to R46) -/

/-- Where the host moves next, a step between two commands serves its first access. -/
theorem step_serves {s : State} {ts : List Turn} {a : HostAccess} {rest : List HostAccess}
    (hq : s.seq = .idle ∨ s.seq = .faulted) (ht : HostsTurn s ts) (hs : s.script = a :: rest) :
    step s = serveAccess a ((s.setTurns ts).setScript rest) := by
  rw [step_hostsTurn hq ht, hostTurn, State.setTurns_script, hs]

theorem portRefusal_eq_none_iff (off width : Nat) :
    portRefusal off width = none ↔ ¬ (0x44 ≤ off ∨ width ≠ 4 ∨ off % 4 ≠ 0) := by
  unfold portRefusal
  split
  next h => simp [h]
  next h =>
    split
    next hw => simp [hw]
    next hw =>
      split
      next ha => simp [ha]
      next ha =>
        simp only [true_iff, not_or]
        exact ⟨h, hw, ha⟩

/-- A 4-byte access at the offset of a register is given a meaning (R42, R46). -/
theorem portRefusal_regAt {off : Nat} {r : Reg} (h : regAt off = some r) : portRefusal off 4 = none := by
  unfold regAt at h
  split at h
  case h_18 => simp at h
  all_goals rfl

theorem serveAccess_read {off width : Nat} (h : portRefusal off width = none) (s : State) :
    serveAccess (.read off width) s = .next (hostRead off s) := by
  simp only [serveAccess, h]

/-- R64: a served write of `CMD` starts the word. -/
theorem serveAccess_write_cmd (v : Word) (s : State) : serveAccess (.write 0 4 v) s = startWord v s := rfl

theorem serveAccess_write {off width : Nat} (h : portRefusal off width = none) (hoff : off ≠ 0) (v : Word) (s : State) :
    serveAccess (.write off width v) s = .next (hostWrite off v s) := by
  simp only [serveAccess, h, if_neg hoff]

/-- Every command answers a next state. -/
theorem exec_next (i : Instr) (s : State) : ∃ t, exec i s = .next t := by
  obtain ⟨sq, hsq, _⟩ := exec_runs i
  exact ⟨_, hsq s⟩

/-- Every word written to `CMD` is served, be it a command or not. -/
theorem startWord_next (w : Word) (s : State) : ∃ t, startWord w s = .next t := by
  unfold startWord
  split
  next i _ => exact exec_next i s
  next => exact ⟨_, rfl⟩

/-- An access is refused where the port gives it no meaning, and only there. -/
theorem serveAccess_refused_iff {a : HostAccess} {off width : Nat}
    (ha : a = .read off width ∨ ∃ v, a = .write off width v) (s : State) :
    (∃ r, serveAccess a s = .refused r) ↔ portRefusal off width ≠ none := by
  cases hp : portRefusal off width with
  | some r =>
    have hrefused : serveAccess a s = .refused r := by
      rcases ha with rfl | ⟨v, rfl⟩ <;> simp only [serveAccess, hp]
    simp [hrefused]
  | none =>
    have hserved : ∃ t, serveAccess a s = .next t := by
      rcases ha with rfl | ⟨v, rfl⟩
      · exact ⟨_, serveAccess_read hp s⟩
      · by_cases hoff : off = 0
        · obtain ⟨t, ht⟩ := startWord_next v s
          exact ⟨t, by simp only [serveAccess, hp, if_pos hoff, ht]⟩
        · exact ⟨_, serveAccess_write hp hoff v s⟩
    obtain ⟨t, ht⟩ := hserved
    simp [ht]

/-- Settles O14: the step serves the access, and the port refuses by offset, width and alignment. -/
theorem portRefusesOtherAccesses : Obligations.PortRefusesOtherAccesses := by
  intro s ts a rest off width hq ht hs ha
  rw [step_serves hq ht hs, serveAccess_refused_iff ha, Ne, portRefusal_eq_none_iff, not_not]

/-! ## Host reads (R41, R44) -/

/-- What a register reads does not depend on the host's accesses or on the turns. -/
theorem readReg_setTurns_setScript (r : Reg) (s : State) (ts : List Turn) (accesses : List HostAccess) :
    readReg r ((s.setTurns ts).setScript accesses) = readReg r s := by
  cases r <;> rfl

/-- The map of R41: each offset with its register. -/
def registerMap : List (Nat × Reg) :=
  [(0x00, .cmd), (0x04, .arg0), (0x08, .arg1), (0x0C, .result), (0x10, .fsr), (0x14, .mckcache), (0x18, .sr),
    (0x1C, .reserved), (0x20, .mckr), (0x24, .pllar), (0x28, .cpr), (0x2C, .oscr), (0x30, .pcr), (0x34, .pckenr),
    (0x38, .pck 0), (0x3C, .pck 1), (0x40, .pck 2)]

theorem regAt_of_mem_registerMap : ∀ e ∈ registerMap, regAt e.1 = some e.2 := by decide

/-- The step in which the host reads the register at `off`. -/
theorem step_reads {s : State} {ts : List Turn} {rest : List HostAccess} {off : Nat} {r : Reg}
    (hq : s.seq = .idle ∨ s.seq = .faulted) (ht : HostsTurn s ts) (hs : s.script = .read off 4 :: rest)
    (hr : regAt off = some r) :
    step s = .next (((s.setScript rest).setReply (some (readReg r s))).setTurns ts) := by
  rw [step_serves hq ht hs, serveAccess_read (portRefusal_regAt hr), hostRead, hr]
  dsimp only
  rw [readReg_setTurns_setScript]
  rfl

/-- Settles O11: the listed values are what the registers of the map read. -/
theorem hostReadReturnsTheRegister : Obligations.HostReadReturnsTheRegister := by
  intro s ts rest off v hq ht hs hv
  change (off, v) ∈ registerMap.map fun e => (e.1, readReg e.2 s) at hv
  obtain ⟨⟨_, r⟩, hmem, he⟩ := List.mem_map.1 hv
  obtain ⟨rfl, rfl⟩ := Prod.mk.inj he
  exact step_reads hq ht hs (regAt_of_mem_registerMap _ hmem)

/-! ## Host writes (R45, R47, R49, R51) -/

/-- R51: in FAULTED a host write changes nothing. -/
theorem hostWrite_faulted {s : State} (h : s.seq = .faulted) (off : Nat) (v : Word) : hostWrite off v s = s := by
  simp only [hostWrite, h, if_true]

theorem hostWrite_regAt {s : State} {off : Nat} {r : Reg} (h : s.seq ≠ .faulted) (hr : regAt off = some r) (v : Word) :
    hostWrite off v s = writeReg r v s := by
  simp only [hostWrite, if_neg h, hr]

/-- A register write neither reads nor changes the host's accesses and the turns. -/
theorem writeReg_setTurns_setScript (r : Reg) (v : Word) (s : State) (ts : List Turn) (accesses : List HostAccess) :
    writeReg r v ((s.setTurns ts).setScript accesses) = ((writeReg r v s).setScript accesses).setTurns ts := by
  cases r with
  | pcr =>
    rw [writeReg_pcr, writeReg_pcr, pcrWrite_eq, pcrWrite_eq]
    rfl
  | _ => rfl

/-- The step in which the host, while IDLE, writes the register at an offset other than that of `CMD`. -/
theorem step_writes {s : State} {ts : List Turn} {rest : List HostAccess} {off : Nat} {v : Word} {r : Reg}
    (hq : s.seq = .idle) (ht : HostsTurn s ts) (hs : s.script = .write off 4 v :: rest) (hoff : off ≠ 0)
    (hr : regAt off = some r) : step s = .next (((writeReg r v s).setScript rest).setTurns ts) := by
  have hworks : ((s.setTurns ts).setScript rest).seq ≠ .faulted := by simp [hq]
  rw [step_serves (.inl hq) ht hs, serveAccess_write (portRefusal_regAt hr) hoff, hostWrite_regAt hworks hr,
    writeReg_setTurns_setScript]

/-- The part of the map that the host may write, without `CMD` (R41). -/
def writableMap : List (Nat × Reg) :=
  [(0x04, .arg0), (0x08, .arg1), (0x20, .mckr), (0x24, .pllar), (0x28, .cpr), (0x2C, .oscr), (0x30, .pcr),
    (0x34, .pckenr), (0x38, .pck 0), (0x3C, .pck 1), (0x40, .pck 2)]

theorem regAt_of_mem_writableMap : ∀ e ∈ writableMap, e.1 ≠ 0 ∧ regAt e.1 = some e.2 := by decide

/-- Settles O12: the listed states are those that the writes of the map's registers give. -/
theorem hostWriteStoresTheRegister : Obligations.HostWriteStoresTheRegister := by
  intro s u ts rest off v hq ht hs hu
  change (off, u) ∈ writableMap.map fun e => (e.1, writeReg e.2 v s) at hu
  obtain ⟨⟨_, r⟩, hmem, he⟩ := List.mem_map.1 hu
  obtain ⟨rfl, rfl⟩ := Prod.mk.inj he
  obtain ⟨hoff, hr⟩ := regAt_of_mem_writableMap _ hmem
  exact step_writes hq ht hs hoff hr

/-- The registers that are read-only to the host, and the reserved word (R42, R49). -/
def readOnlyRegs : List Reg := [.result, .fsr, .mckcache, .sr, .reserved]

theorem regAt_readOnly : ∀ off ∈ [0x0C, 0x10, 0x14, 0x18, 0x1C], off ≠ 0 ∧ ∃ r ∈ readOnlyRegs, regAt off = some r := by
  decide

theorem writeReg_readOnly (v : Word) (s : State) : ∀ r ∈ readOnlyRegs, writeReg r v s = s := by
  simp [readOnlyRegs]

/-- Settles O13: while IDLE the write of such a register changes nothing, and in FAULTED no write does. -/
theorem readOnlyRegistersIgnoreHostWrites : Obligations.ReadOnlyRegistersIgnoreHostWrites := by
  intro s ts rest off v hq ht hs hmem
  obtain ⟨hoff, r, hread, hr⟩ := regAt_readOnly off hmem
  rcases hq with hidle | hfaulted
  · rw [step_writes hidle ht hs hoff hr, writeReg_readOnly v s r hread]
  · rw [step_serves (.inr hfaulted) ht hs, serveAccess_write (portRefusal_regAt hr) hoff,
      hostWrite_faulted (s := (s.setTurns ts).setScript rest) hfaulted]
    rfl

/-- R49: no host write of a register changes the memoised word. -/
theorem hostWrite_mckcache (off : Nat) (v : Word) (s : State) : (hostWrite off v s).mckcache = s.mckcache := by
  unfold hostWrite
  split
  · rfl
  · split
    next r _ =>
      obtain ⟨_, hmemo, _⟩ := writeReg_frame r v s
      exact hmemo
    · rfl

/-- Settles O60: a write that is not refused is a register write. -/
theorem rawWritesKeepTheMemoisedWord : Obligations.RawWritesKeepTheMemoisedWord := by
  intro s t ts off width v rest hq ht hs hoff hstep
  rw [step_serves hq ht hs] at hstep
  cases hp : portRefusal off width with
  | some r => simp [serveAccess, hp] at hstep
  | none =>
    rw [serveAccess_write hp hoff] at hstep
    obtain rfl := Host.Outcome.next.inj hstep
    exact hostWrite_mckcache off v _

/-! ## The PCR window (R48) -/

theorem validId_iff (p : Params) (id : Nat) : validId p id = true ↔ 2 ≤ id ∧ id < p.nPeriph := by
  simp [validId]

/-- What a store reads at an id is 0 or one of its words. -/
theorem storeRead_eq_zero_or_mem (id : Nat) (m : PeriphStore) : storeRead id m = 0 ∨ (id, storeRead id m) ∈ m := by
  induction m with
  | nil => exact .inl rfl
  | cons e rest ih =>
    obtain ⟨j, v⟩ := e
    by_cases hj : j = id
    · simp [storeRead, hj]
    · rw [storeRead, if_neg hj]
      exact ih.imp_right (List.mem_cons_of_mem _)

/-- A legal store reads 0 in the commit bit, which no word of it has (R20). -/
theorem StoreLegal.commit_bit {p : Params} {m : PeriphStore} (h : StoreLegal p m) (id : Nat) :
    bitSet (storeRead id m) 12 = false := by
  have hmask : storeRead id m &&& ~~~cfgMask = 0 := by
    rcases storeRead_eq_zero_or_mem id m with hzero | hmem
    · rw [hzero]
      exact BitVec.zero_and
    · exact (h.2 _ hmem).2
  have hbit : (~~~cfgMask).getLsbD 12 = true := by decide
  have hand : (storeRead id m &&& ~~~cfgMask).getLsbD 12 = false := by
    rw [hmask]
    rfl
  rwa [BitVec.getLsbD_and, hbit, Bool.and_true] at hand

/-- The selector reaches no further than bit 6 of the window (R20). -/
theorem selector_commit_bit (sel : BitVec 7) : bitSet (sel.setWidth 32) 12 = false := by
  simp [bitSet]

/-- R48: the commit bit of the window reads 0. -/
theorem pcrRead_commit_bit {s : State} (h : StoreLegal s.params s.periph) : bitSet (pcrRead s) 12 = false := by
  unfold pcrRead
  split
  · rw [bitSet, BitVec.getLsbD_or, ← bitSet, ← bitSet, selector_commit_bit, h.commit_bit, Bool.or_false]
  · exact selector_commit_bit _

/-- R48: the word of every peripheral after a write of the window. -/
theorem storeRead_pcrWrite (id : Nat) (v : Word) (s : State) :
    storeRead id (pcrWrite v s).periph =
      if pcrCmd v = true ∧ id = (pcrPid v).toNat ∧ validId s.params id = true then v &&& cfgMask
      else storeRead id s.periph := by
  rw [pcrWrite_eq, State.setPeriph_periph]
  by_cases hc : pcrCmd v = true ∧ validId s.params (pcrPid v).toNat = true
  · rw [if_pos (Bool.and_eq_true_iff.2 hc), storeRead_write]
    by_cases hid : id = (pcrPid v).toNat
    · rw [if_pos hid, if_pos ⟨hc.1, hid, hid ▸ hc.2⟩]
    · rw [if_neg hid, if_neg fun ⟨_, h, _⟩ => hid h]
  · rw [if_neg fun h => hc (Bool.and_eq_true_iff.1 h), if_neg]
    rintro ⟨hcmd, rfl, hvalid⟩
    exact hc ⟨hcmd, hvalid⟩

/-- Settles O15: the write by its selector, its words and its frame, the read by its definition and its commit bit. -/
theorem pcrWindow : Obligations.PcrWindow := by
  intro s v
  refine ⟨by rw [pcrWrite_eq]; rfl, fun id => ?_, pcrWrite_frame v s, ?_, pcrRead_commit_bit⟩
  · simp only [storeRead_pcrWrite, validId_iff]
    rfl
  · simp only [readReg, pcrRead, validId_iff]

end Sys2Proof.Machine
end

section
/-! PROOFS. A command at the port and in the engine: which step is its meaning, where it has no effect, and what it leaves
alone (spec/20_memory.md R47 to R58, spec/60_exceptions.md R175, R176). -/

namespace Sys2Proof.Machine

/-! ## The step of a command (R47, R64, R66) -/

theorem startWord_decoded {w : Word} {i : Instr} (h : decode w = .ok i) (s : State) : startWord w s = exec i s := by
  simp only [startWord, h]

/-- The step in which the host, while IDLE, writes the word of a command to `CMD`. -/
theorem step_starts {s : State} {ts : List Turn} {w : Word} {i : Instr} {rest : List HostAccess} (hq : s.seq = .idle)
    (ht : HostsTurn s ts) (hs : s.script = .write 0 4 w :: rest) (hd : decode w = .ok i) :
    step s = exec i ((s.setTurns ts).setScript rest) := by
  rw [step_serves (.inl hq) ht hs, serveAccess_write_cmd, startWord_decoded hd]

/-- Everything the step of a running word can do where no reset comes first: it is the meaning of the word's command, and
the model stops where the word is no command. -/
theorem step_run_cases {s : State} {w : Word} {k : Nat} {t : Temps} (hq : s.seq = .run w k t)
    (hr : ∀ ts, s.turns ≠ .reset :: ts) :
    (∃ i, decode w = .ok i ∧ step s = exec i s) ∨ (∃ e, decode w = .error e ∧ step s = .fault .sequencerLost) := by
  simp only [step, hq]
  unfold resumeWord
  split
  next ts hts => exact absurd hts (hr ts)
  next =>
    split
    next i hd => exact .inl ⟨i, hd, rfl⟩
    next e hd => exact .inr ⟨e, hd, rfl⟩

/-- Settles O5: the host's write by `step_starts`, the running word by `step_run_cases`. -/
theorem stepRunsTheDecodedCommand : Obligations.StepRunsTheDecodedCommand := by
  refine ⟨fun s w i rest hq hs hd => ⟨fun hnil => ?_, fun ts hgo => step_starts hq (.inr hgo) hs hd⟩,
    fun s w k t i hq hd hr => ?_⟩
  · have hstart := step_starts hq (.inl ⟨hnil, rfl⟩) hs hd
    rwa [State.setTurns_nil_self hnil] at hstart
  · rcases step_run_cases hq hr with ⟨j, hj, hstep⟩ | ⟨e, he, _⟩
    · obtain rfl : i = j := Except.ok.inj (hd.symm.trans hj)
      exact hstep
    · exact absurd (hd.symm.trans he) (by simp)

/-! ## Where a command has no effect (R50, R51) -/

/-- R50: behind another command a command waits. -/
theorem exec_other {i : Instr} {s : State} {w : Word} {k : Nat} {t : Temps} (h : s.seq = .run w k t)
    (hw : w ≠ encode i) : exec i s = .next s := by
  obtain ⟨sq, hsq, _⟩ := exec_runs i
  rw [hsq, runCommand_other h hw]

/-- R51: in FAULTED a command is ignored. -/
theorem exec_faulted {s : State} (h : s.seq = .faulted) (i : Instr) : exec i s = .next s := by
  obtain ⟨sq, hsq, _⟩ := exec_runs i
  rw [hsq, runCommand_faulted h]

/-- Settles O10: the two cases in which `runCommand` answers the state itself. -/
theorem commandWaitsWhileAnotherRunsAndIsIgnoredInFaulted :
    Obligations.CommandWaitsWhileAnotherRunsAndIsIgnoredInFaulted :=
  fun i _ => ⟨fun _ _ _ => exec_other, fun h => exec_faulted h i⟩

/-! ## FAULTED (R51, R175, R176) -/

theorem startWord_faulted {s : State} (h : s.seq = .faulted) (w : Word) : startWord w s = .next s := by
  unfold startWord
  split
  next i _ => exact exec_faulted h i
  next => simp only [illegalCommand, h]

/-- In FAULTED an access that is served gives at most a reply. -/
theorem serveAccess_faulted {a : HostAccess} {s t : State} (h : s.seq = .faulted) (hs : serveAccess a s = .next t) :
    t = s.setReply t.reply := by
  cases a with
  | read off width =>
    simp only [serveAccess] at hs
    split at hs
    · simp at hs
    · obtain rfl := Host.Outcome.next.inj hs
      unfold hostRead
      split <;> rfl
  | write off width v =>
    simp only [serveAccess, startWord_faulted h, hostWrite_faulted h, ite_self] at hs
    split at hs
    · simp at hs
    · obtain rfl := Host.Outcome.next.inj hs
      rfl

/-- In FAULTED the host's turn changes nothing but the host's own accesses and reply. -/
theorem hostTurn_faulted {s t : State} (h : s.seq = .faulted) (hs : hostTurn s = .next t) :
    t = (s.setScript t.script).setReply t.reply := by
  unfold hostTurn at hs
  split at hs
  · obtain rfl := Host.Outcome.next.inj hs
    rfl
  next rest _ =>
    rw [serveAccess_faulted (s := s.setScript rest) h hs]
    rfl

/-- The environment's steps do not read the turns. -/
theorem envStep_setTurns (e : EnvStep) (s : State) (ts : List Turn) :
    envStep e (s.setTurns ts) = (envStep e s).setTurns ts := by
  cases e <;> simp only [envStep, apply_ite (State.setTurns · ts)] <;> rfl

/-- Settles O17: one case for each agent whose turn it can be. -/
theorem faultedIsLeftByResetOnly : Obligations.FaultedIsLeftByResetOnly := by
  intro s t hq hstep
  simp only [step, hq] at hstep
  unfold portTurn at hstep
  split at hstep
  next =>
    refine .inr (.inr ?_)
    rw [hostTurn_faulted hq hstep]
    rfl
  next ts _ =>
    refine .inr (.inr ?_)
    rw [hostTurn_faulted (s := s.setTurns ts) hq hstep]
    rfl
  next e ts hts =>
    obtain rfl := Host.Outcome.next.inj hstep
    refine .inr (.inl ⟨e, ts, hts, ?_⟩)
    rw [envStep_setTurns, ← envStep_eq]
  next ts hts => exact .inl ⟨ts, hts⟩
  next ts _ =>
    obtain rfl := Host.Outcome.next.inj hstep
    exact .inr (.inr rfl)

/-! ## What a register write leaves alone (R47) -/

/-- A register write changes what no other register reads but `SR`. -/
theorem readReg_writeReg_other {r r' : Reg} (h : r ≠ r') (hsr : r ≠ .sr) (v : Word) (s : State) :
    readReg r (writeReg r' v s) = readReg r s := by
  cases r' with
  | pcr =>
    cases r with
    | pcr => exact absurd rfl h
    | _ => simp [pcrWrite_eq, readReg]
  | pck n =>
    cases r with
    | pck m => exact State.setPck_getElem_other s n m v fun hmn => h (congrArg Reg.pck hmn)
    | _ => rfl
  | _ =>
    cases r with
    | pcr => rfl
    | sr => exact absurd rfl hsr
    | _ => simp_all [readReg]

/-- A register write leaves the host's accesses and reply alone. -/
theorem writeReg_host (r : Reg) (v : Word) (s : State) :
    (writeReg r v s).script = s.script ∧ (writeReg r v s).reply = s.reply := by
  cases r with
  | pcr => simp [pcrWrite_eq]
  | _ => exact ⟨rfl, rfl⟩

/-- Only a write of `PCR` moves the selector or a peripheral's word (R48). -/
theorem writeReg_window {r : Reg} (h : r ≠ .pcr) (v : Word) (s : State) :
    (writeReg r v s).periph = s.periph ∧ (writeReg r v s).pcrSel = s.pcrSel := by
  cases r with
  | pcr => exact absurd rfl h
  | _ => exact ⟨rfl, rfl⟩

/-! ## What a command leaves alone (R58) -/

/-- `u` holds what `s` holds in everything that command `i` may not change (R58). -/
structure Untouched (i : Instr) (s u : State) : Prop where
  regs : ∀ r, ¬ mayChange i r → readReg r u = readReg r s
  window : ¬ mayChange i .pcr → u.periph = s.periph ∧ u.pcrSel = s.pcrSel
  params : u.params = s.params
  script : u.script = s.script
  reply : u.reply = s.reply

theorem Untouched.refl (i : Instr) (s : State) : Untouched i s s := ⟨fun _ _ => rfl, fun _ => ⟨rfl, rfl⟩, rfl, rfl, rfl⟩

theorem Untouched.trans {i : Instr} {s u v : State} (h : Untouched i s u) (h' : Untouched i u v) : Untouched i s v where
  regs r hr := (h'.regs r hr).trans (h.regs r hr)
  window hr := ⟨(h'.window hr).1.trans (h.window hr).1, (h'.window hr).2.trans (h.window hr).2⟩
  params := h'.params.trans h.params
  script := h'.script.trans h.script
  reply := h'.reply.trans h.reply

/-- `CMD`, `FSR`, `SR`, the sequencer and the turns are in no command's frame. -/
theorem untouched_bookkeeping (i : Instr) (s : State) (cmd fsr sr : Word) (seq : Seq) (ts : List Turn) :
    Untouched i s { s with cmd := cmd, fsr := fsr, sr := sr, seq := seq, turns := ts } where
  regs r hr := by
    cases r with
    | cmd | fsr | sr => exact absurd trivial hr
    | _ => rfl
  window _ := ⟨rfl, rfl⟩
  params := rfl
  script := rfl
  reply := rfl

theorem untouched_setSeq (i : Instr) (s : State) (seq : Seq) : Untouched i s (s.setSeq seq) :=
  untouched_bookkeeping i s s.cmd s.fsr s.sr seq s.turns

/-- Replacing the index writes `SEQ` only. -/
theorem setIndex_eq (s : State) (k : Nat) : s.setIndex k = s.setSeq (s.setIndex k).seq := by
  unfold State.setIndex
  split <;> rfl

/-- Replacing the temporaries writes `SEQ` only. -/
theorem setTemps_eq (s : State) (t : Temps) : s.setTemps t = s.setSeq (s.setTemps t).seq := by
  unfold State.setTemps
  split <;> rfl

theorem untouched_setIndex (i : Instr) (s : State) (k : Nat) : Untouched i s (s.setIndex k) := by
  rw [setIndex_eq]
  exact untouched_setSeq i s _

theorem untouched_setTemps (i : Instr) (s : State) (t : Temps) : Untouched i s (s.setTemps t) := by
  rw [setTemps_eq]
  exact untouched_setSeq i s _

/-- A write of a register that the command may change stays within the frame. -/
theorem untouched_writeReg {i : Instr} {r : Reg} (may : mayChange i r) (v : Word) (s : State) :
    Untouched i s (writeReg r v s) := by
  obtain ⟨_, _, hparams, _⟩ := writeReg_frame r v s
  obtain ⟨hscript, hreply⟩ := writeReg_host r v s
  refine ⟨fun r' no => ?_, fun no => ?_, hparams, hscript, hreply⟩
  · have hne : r' ≠ r := fun h => no (h.symm ▸ may)
    have hsr : r' ≠ .sr := fun h => no (h.symm ▸ trivial)
    exact readReg_writeReg_other hne hsr v s
  · have hne : r ≠ .pcr := fun h => no (h ▸ may)
    exact writeReg_window hne v s

theorem untouched_setResult {i : Instr} (may : mayChange i .result) (v : Word) (s : State) :
    Untouched i s (s.setResult v) where
  regs r no := by
    cases r with
    | result => exact absurd may no
    | _ => rfl
  window _ := ⟨rfl, rfl⟩
  params := rfl
  script := rfl
  reply := rfl

theorem untouched_setMckcache {i : Instr} (may : mayChange i .mckcache) (v : Word) (s : State) :
    Untouched i s (s.setMckcache v) where
  regs r no := by
    cases r with
    | mckcache => exact absurd may no
    | _ => rfl
  window _ := ⟨rfl, rfl⟩
  params := rfl
  script := rfl
  reply := rfl

/-- R29, R58: a command that fills the memoised word may change it. -/
theorem FillsMemo.mayChange {i : Instr} (h : FillsMemo i) : mayChange i .mckcache := by
  rcases h with rfl | rfl | ⟨a, rfl⟩ <;> trivial

/-- Every micro-operation of a command stays within its frame. -/
theorem Effect.untouched {i : Instr} {s u : State} (h : Effect i s u) : Untouched i s u := by
  cases h with
  | write r v t may => exact (untouched_setTemps i s t).trans (untouched_writeReg may v _)
  | result v may => exact untouched_setResult may v s
  | forget may => exact untouched_setMckcache may 0 s
  | fill query => exact untouched_setMckcache (FillsMemo.mayChange query) _ s
  | temps t => exact untouched_setTemps i s t

/-- The induction over a command without a reset among the turns: what the environment, every micro-operation and the
sequencer's bookkeeping keep, the command keeps, from its start or from where it goes on; or it takes a fault at once. -/
theorem exec_keeps_noReset {i : Instr} (P : State → Prop) (turns : ∀ s sr ts, P s → P ((s.setSr sr).setTurns ts))
    (effects : ∀ s u, Effect i s u → P s → P u) (seq : ∀ s q, P s → P (s.setSeq q)) {s t : State}
    (hr : NoReset s.turns) (he : exec i s = .next t) :
    (s.seq = .idle ∧ ∃ c, t = raiseFault c (operandA i) (s.setCmd (encode i))) ∨
      (s.seq = .idle ∧ (P (s.setCmd (encode i)) → P t)) ∨ (P s → P t) := by
  have waits (c : State → Bool) (u : State) (hu : NoReset u.turns ∧ P u) :
      NoReset (await c u.turns u).2.turns ∧ P (await c u.turns u).2 := by
    obtain ⟨hframe, hsub⟩ := await_noReset c u.turns u hu.1
    exact ⟨fun m => hu.1 (hsub _ m), by rw [hframe]; exact turns u _ _ hu.2⟩
  have index (u : State) (k : Nat) (hu : NoReset u.turns ∧ P u) : NoReset (u.setIndex k).turns ∧ P (u.setIndex k) := by
    rw [setIndex_eq]
    exact ⟨hu.1, seq u _ hu.2⟩
  have acts (u v : State) (effect : Effect i u v) (k : Nat) (hu : NoReset u.turns ∧ P u) :
      NoReset (v.setIndex k).turns ∧ P (v.setIndex k) :=
    index v k ⟨by rw [effect.turns]; exact hu.1, effects u v effect hu.2⟩
  rcases exec_keeps i (fun u => NoReset u.turns ∧ P u) waits acts index (fun u hu => ⟨hu.1, seq u _ hu.2⟩) s t he with
    ⟨hs, c, _, hfault⟩ | rfl | ⟨hs, _, run⟩ | ⟨_, run⟩
  · exact .inl ⟨hs, c, hfault⟩
  · exact .inr (.inr id)
  · exact .inr (.inl ⟨hs, fun hP => (run ⟨hr, seq _ _ hP⟩).2⟩)
  · exact .inr (.inr fun hP => (run ⟨hr, hP⟩).2)

/-- A command stays within its frame, whether it ends, hangs, is held or takes a fault. -/
theorem exec_untouched {i : Instr} {s t : State} (hr : NoReset s.turns) (he : exec i s = .next t) : Untouched i s t := by
  rcases exec_keeps_noReset (Untouched i s)
      (fun u sr ts hu => hu.trans (untouched_bookkeeping i u u.cmd u.fsr sr u.seq ts))
      (fun _ _ effect hu => hu.trans effect.untouched) (fun u q hu => hu.trans (untouched_setSeq i u q)) hr he with
    ⟨_, c, rfl⟩ | ⟨_, run⟩ | run
  · exact untouched_bookkeeping i s (encode i) (faultStatus s.fsr c (operandA i)) s.sr .faulted s.turns
  · exact run (untouched_bookkeeping i s (encode i) s.fsr s.sr s.seq s.turns)
  · exact run (.refl i s)

/-- Settles O56: the parts of `Untouched`. -/
theorem commandsChangeOnlyTheirRegisters : Obligations.CommandsChangeOnlyTheirRegisters := by
  intro i s t hr he
  obtain ⟨regs, window, params, script, reply⟩ := exec_untouched hr he
  exact ⟨regs, window, params, script, reply⟩

/-! ## The port while a command runs (R11, R50) -/

/-- No micro-operation writes `CMD` (R11). -/
theorem Effect.cmd {i : Instr} {s u : State} (h : Effect i s u) : u.cmd = s.cmd := by
  cases h with
  | write r v t _ notCmd =>
    have hread : readReg .cmd (writeReg r v (s.setTemps t)) = readReg .cmd (s.setTemps t) :=
      readReg_writeReg_other notCmd.symm (by simp) v _
    exact hread.trans (State.setTemps_cmd s t)
  | result | forget | fill => rfl
  | temps t => exact State.setTemps_cmd s t

/-- A command that goes on leaves `CMD` alone. -/
theorem exec_run_cmd {i : Instr} {s t : State} (hs : s.seq ≠ .idle) (hr : NoReset s.turns) (he : exec i s = .next t) :
    t.cmd = s.cmd := by
  rcases exec_keeps_noReset (fun u => u.cmd = s.cmd) (fun _ _ _ hu => hu) (fun _ _ effect hu => effect.cmd.trans hu)
      (fun _ _ hu => hu) hr he with ⟨hidle, _⟩ | ⟨hidle, _⟩ | run
  · exact absurd hidle hs
  · exact absurd hidle hs
  · exact run rfl

/-- Settles O16: the step is the command's, whose frame holds the host's side and `ARG`. -/
theorem portStallsWhileACommandRuns : Obligations.PortStallsWhileACommandRuns := by
  intro s t w k u hs hr hstep
  have hfirst : ∀ ts, s.turns ≠ .reset :: ts := fun ts hts => hr (by simp [hts])
  rcases step_run_cases hs hfirst with ⟨i, _, hcommand⟩ | ⟨_, _, hlost⟩
  · have he : exec i s = .next t := hcommand.symm.trans hstep
    have frame := exec_untouched hr he
    exact ⟨frame.script, frame.reply, exec_run_cmd (by simp [hs]) hr he, frame.regs .arg0 id, frame.regs .arg1 id⟩
  · rw [hlost] at hstep
    simp at hstep

end Sys2Proof.Machine
end

section
/-! PROOFS. Decoding and encoding are inverse to each other, and the opcode table lists what they do
(spec/30_encoding.md R61 to R65). -/

namespace Sys2Proof

/-! ## From a command to its word and back (R61, R63) -/

/-- A word with its operand in `A` and no further field is accepted. -/
theorem noOther_formatC_a (op a : Byte) (i : Instr) : noOther (formatC op a 0#8 0#8) 16 i = .ok i := by
  have hop := op.isLt
  have ha := a.isLt
  have hzero : (0#8).toNat = 0 := rfl
  refine (noOther_ok _ _ _ _).2 ⟨rfl, ?_⟩
  rw [formatC_toNat]
  omega

/-- A word with no field but `OP` is accepted. -/
theorem noOther_formatC_op (op : Byte) (i : Instr) : noOther (formatC op 0#8 0#8 0#8) 8 i = .ok i := by
  have hop := op.isLt
  have hzero : (0#8).toNat = 0 := rfl
  refine (noOther_ok _ _ _ _).2 ⟨rfl, ?_⟩
  rw [formatC_toNat]
  omega

/-- Bits [23:19] of a word are the upper bits of its field `B`; they are zero where `B` is below 8 (R65). -/
theorem bitField_upperB_eq_zero_iff (w : Word) : bitField w 19 5 = 0 ↔ (bitField w 16 8).toNat < 8 := by
  have hzero : (0 : BitVec 5).toNat = 0 := rfl
  rw [← BitVec.toNat_inj, bitField_toNat, bitField_toNat]
  omega

/-- R65: a `CFGPCK` is well-formed where its source code has 3 bits. -/
theorem cfgpck_wellFormed_iff (a b c : Byte) : (Instr.cfgpck a b c).WellFormed ↔ b.toNat < 8 :=
  decide_eq_true_iff

/-- The word of a well-formed command decodes to the command. -/
theorem decode_encode {i : Instr} (h : i.WellFormed) : decode (encode i) = .ok i := by
  cases i with
  | cfgpck a b c =>
    obtain ⟨hop, ha, hb, hc⟩ := bitField_formatC 0x40#8 a b c
    have hupper : bitField (formatC 0x40#8 a b c) 19 5 = 0 := by
      rw [bitField_upperB_eq_zero_iff, hb]
      exact (cfgpck_wellFormed_iff a b c).1 h
    simp [decode, encode, opcode, hop, ha, hb, hc, hupper]
  | setpres a | setmdiv a | setplladiv2 a | enp a | disp a | isenp a | getpclk a | enpck a | dispck a | getpck a =>
    simp [decode, encode, opcode, operandA, bitField_formatC, noOther_formatC_a]
  | _ => simp [decode, encode, opcode, operandA, bitField_formatC, noOther_formatC_op]

/-- A word decodes to well-formed commands only. -/
theorem decode_wellFormed {w : Word} {i : Instr} (h : decode w = .ok i) : i.WellFormed := by
  unfold decode at h
  dsimp only at h
  split at h
  case h_22 =>
    split at h
    next hupper =>
      obtain rfl := Except.ok.inj h
      exact (cfgpck_wellFormed_iff _ _ _).2 ((bitField_upperB_eq_zero_iff w).1 hupper)
    · simp at h
  case h_26 => simp at h
  all_goals
    obtain ⟨rfl, _⟩ := (noOther_ok _ _ _ _).1 h
    rfl

/-- Decoding, said once: the words that decode to a command are its own word, if it is well-formed, and no other. -/
theorem decode_eq_ok_iff (w : Word) (i : Instr) : decode w = .ok i ↔ encode i = w ∧ i.WellFormed := by
  constructor
  · exact fun h => ⟨encode_of_decode h, decode_wellFormed h⟩
  · rintro ⟨rfl, h⟩
    exact decode_encode h

/-- Settles O1. -/
theorem decodeOfEncodeIsTheCommand : Obligations.DecodeOfEncodeIsTheCommand := fun _ => decode_encode

/-- Settles O2. -/
theorem encodeOfDecodeIsTheWord : Obligations.EncodeOfDecodeIsTheWord := fun w i => (decode_eq_ok_iff w i).1

/-- Settles O4. -/
theorem writtenOutWordsDecode : Obligations.WrittenOutWordsDecode := by
  unfold Obligations.WrittenOutWordsDecode
  decide

/-! ## The opcode table (R63) -/

/-- The bits of a command's word that no operand reaches. -/
def fixedBits : Instr → Word
  | .cfgpck _ _ _ => 0x00F800FF
  | .setpres _ | .setmdiv _ | .setplladiv2 _ => 0xFFFF00FF
  | .enp _ | .disp _ | .isenp _ | .getpclk _ => 0xFFFF00FF
  | .enpck _ | .dispck _ | .getpck _ => 0xFFFF00FF
  | .getmck | .getcpu | .getslck | .getmainck | .getplla | .inval => 0xFFFFFFFF
  | .swmain | .swpll | .swslck | .selxslck | .selislck => 0xFFFFFFFF
  | .setplla | .displla | .disallp => 0xFFFFFFFF

/-- The row of a command: its opcode where no operand reaches. -/
def tableRow (i : Instr) : OpcodeRow := ⟨mnemonic i, formatC (opcode i) 0 0 0, fixedBits i⟩

/-- The table lists the row of every command. -/
theorem tableRow_mem (i : Instr) : tableRow i ∈ opcodeTable := by
  cases i <;> simp [tableRow, opcodeTable, mnemonic, opcode, fixedBits, formatC]

/-- The table lists nothing but rows of commands. -/
theorem exists_tableRow {r : OpcodeRow} (h : r ∈ opcodeTable) : ∃ i, tableRow i = r := by
  have all : opcodeTable = List.map tableRow
      [.getmck, .getcpu, .getslck, .getmainck, .getplla, .inval, .swmain, .swpll, .swslck, .setpres 0, .setmdiv 0,
        .setplladiv2 0, .selxslck, .selislck, .setplla, .displla, .enp 0, .disp 0, .isenp 0, .getpclk 0, .disallp,
        .cfgpck 0 0 0, .enpck 0, .dispck 0, .getpck 0] := by decide
  rw [all] at h
  obtain ⟨i, _, hi⟩ := List.mem_map.1 h
  exact ⟨i, hi⟩

/-- No two rows of the table have the same mnemonic. -/
theorem opcodeTable_mnemonics_distinct : (opcodeTable.map OpcodeRow.mnemonic).Nodup := by decide

/-- The row with a command's mnemonic is the command's. -/
theorem eq_tableRow {r : OpcodeRow} (h : r ∈ opcodeTable) {i : Instr} (hm : mnemonic i = r.mnemonic) :
    r = tableRow i :=
  List.inj_on_of_nodup_map opcodeTable_mnemonics_distinct h (tableRow_mem i) hm.symm

/-! ## Words that meet a row (R63) -/

/-- A word meets the row of a command without operands where it is the command's word. -/
theorem meets_without_operands (w : Word) (op : Byte) :
    w &&& 0xFFFFFFFF = formatC op 0 0 0 ↔ w = formatC op 0 0 0 := by
  rw [show (0xFFFFFFFF : Word) = BitVec.allOnes 32 by decide, BitVec.and_allOnes]

/-- A mask of all ones keeps a byte. -/
theorem byte_and_allOnes (x : Byte) : x &&& 0xFF = x := by
  rw [show (0xFF : Byte) = BitVec.allOnes 8 by decide, BitVec.and_allOnes]

/-- A word meets the row of a command with the operand `A` where its other fields are the row's. -/
theorem formatC_meets_with_operand (o a b c op : Byte) :
    formatC o a b c &&& 0xFFFF00FF = formatC op 0 0 0 ↔ o = op ∧ b = 0 ∧ c = 0 := by
  rw [show (0xFFFF00FF : Word) = formatC 0xFF 0 0xFF 0xFF by decide, formatC_and, formatC_inj, byte_and_allOnes,
    byte_and_allOnes, byte_and_allOnes]
  simp

/-- A byte without its upper five bits is below 8. -/
theorem byte_upper_eq_zero_iff : ∀ b : Byte, b &&& 0xF8 = 0 ↔ b.toNat < 8 := by decide

/-- A word meets the row of `CFGPCK` where its opcode is the row's and its source code has 3 bits. -/
theorem formatC_meets_cfgpck (o a b c op : Byte) :
    formatC o a b c &&& 0x00F800FF = formatC op 0 0 0 ↔ o = op ∧ b.toNat < 8 := by
  rw [show (0x00F800FF : Word) = formatC 0xFF 0 0xF8 0 by decide, formatC_and, formatC_inj, byte_and_allOnes,
    byte_upper_eq_zero_iff]
  simp

/-- The word of a well-formed command meets the command's row. -/
theorem encode_meets_tableRow {i : Instr} (h : i.WellFormed) : encode i &&& fixedBits i = formatC (opcode i) 0 0 0 := by
  cases i with
  | cfgpck a b c => exact (formatC_meets_cfgpck _ a b c _).2 ⟨rfl, (cfgpck_wellFormed_iff a b c).1 h⟩
  | setpres a | setmdiv a | setplladiv2 a | enp a | disp a | isenp a | getpclk a | enpck a | dispck a | getpck a =>
    exact (formatC_meets_with_operand _ a 0 0 _).2 ⟨rfl, rfl, rfl⟩
  | _ => rfl

/-- The command of the same mnemonic with the operands that stand in the word. -/
def withOperands (w : Word) : Instr → Instr
  | .setpres _ => .setpres (bitField w 8 8)
  | .setmdiv _ => .setmdiv (bitField w 8 8)
  | .setplladiv2 _ => .setplladiv2 (bitField w 8 8)
  | .enp _ => .enp (bitField w 8 8)
  | .disp _ => .disp (bitField w 8 8)
  | .isenp _ => .isenp (bitField w 8 8)
  | .getpclk _ => .getpclk (bitField w 8 8)
  | .cfgpck _ _ _ => .cfgpck (bitField w 8 8) (bitField w 16 8) (bitField w 24 8)
  | .enpck _ => .enpck (bitField w 8 8)
  | .dispck _ => .dispck (bitField w 8 8)
  | .getpck _ => .getpck (bitField w 8 8)
  | i => i

theorem mnemonic_withOperands (w : Word) (i : Instr) : mnemonic (withOperands w i) = mnemonic i := by
  cases i <;> rfl

/-- A word that meets a command's row is a command of that mnemonic. -/
theorem decode_of_meets_tableRow {w : Word} {i : Instr} (h : w &&& fixedBits i = formatC (opcode i) 0 0 0) :
    decode w = .ok (withOperands w i) := by
  have fields := formatC_bitField w
  rw [decode_eq_ok_iff]
  cases i with
  | cfgpck a b c =>
    rw [← fields] at h
    obtain ⟨hop, hb⟩ := (formatC_meets_cfgpck _ _ _ _ _).1 h
    rw [hop] at fields
    exact ⟨fields, (cfgpck_wellFormed_iff _ _ _).2 hb⟩
  | setpres a | setmdiv a | setplladiv2 a | enp a | disp a | isenp a | getpclk a | enpck a | dispck a | getpck a =>
    rw [← fields] at h
    obtain ⟨hop, hb, hc⟩ := (formatC_meets_with_operand _ _ _ _ _).1 h
    rw [hop, hb, hc] at fields
    exact ⟨fields, rfl⟩
  | _ => exact ⟨((meets_without_operands _ _).1 h).symm, rfl⟩

/-- Settles O3: a word that meets the row is a command of its mnemonic, and the row of a decoded command is the one with
its mnemonic. -/
theorem decodeSelectsTheTableRow : Obligations.DecodeSelectsTheTableRow := by
  intro w r hr
  constructor
  · intro hmeets
    obtain ⟨i, rfl⟩ := exists_tableRow hr
    exact ⟨_, decode_of_meets_tableRow hmeets, mnemonic_withOperands w i⟩
  · rintro ⟨i, hd, hm⟩
    obtain ⟨rfl, hwf⟩ := (decode_eq_ok_iff _ _).1 hd
    rw [eq_tableRow hr hm]
    exact encode_meets_tableRow hwf

end Sys2Proof
end

section
/-! PROOFS. The operand checks, and what a word that is no command or fails its check does (spec/30_encoding.md R64,
R65, R70, spec/60_exceptions.md R171 to R174). -/

namespace Sys2Proof.Machine

/-! ## Operand checks (R70) -/

/-- The check of a command with a peripheral ID (R130). -/
theorem peripheralId_check (p : Params) (a : Byte) :
    (if validId p a.toNat then none else some Cause.invalidPeripheralId) =
      if 2 ≤ a.toNat ∧ a.toNat < p.nPeriph then none else some .invalidPeripheralId :=
  if_congr (validId_iff p a.toNat) rfl rfl

/-- A check of an operand's largest value, as one of the first value above it. -/
theorem bound_check (a : Byte) (n : Nat) (c : Cause) :
    (if a.toNat ≤ n then none else some c) = if a.toNat < n + 1 then none else some c :=
  if_congr Nat.lt_succ_iff.symm rfl rfl

/-- Settles O8. -/
theorem operandChecks : Obligations.OperandChecks := by
  intro p a b c
  refine ⟨?_, bound_check a 6 _, bound_check a 3 _, bound_check a 1 _, ?_, ?_⟩
  · rintro i (rfl | rfl | rfl | rfl) <;> exact peripheralId_check p a
  · rintro i (rfl | rfl | rfl | rfl) <;> exact bound_check a 2 _
  · intro i hi
    fin_cases hi <;> rfl

/-! ## Taking a fault (R171, R173) -/

/-- Clearing bits that are zero changes nothing. -/
theorem and_not_of_and_eq_zero {w m : Word} (h : w &&& m = 0) : w &&& ~~~m = w := by
  calc w &&& ~~~m = w &&& m ||| w &&& ~~~m := by rw [h]; exact BitVec.zero_or.symm
    _ = w := by rw [← BitVec.and_or_distrib_left, BitVec.or_not_self, BitVec.and_allOnes]

/-- A field that is zero is written by an `or`. -/
theorem insertField_of_clear {w : Word} {lo n : Nat} (v : BitVec n)
    (h : w &&& (BitVec.allOnes n).setWidth 32 <<< lo = 0) : insertField w lo v = w ||| v.setWidth 32 <<< lo := by
  rw [insertField, and_not_of_and_eq_zero h]

/-- The fault status word of a fault from a clear `FSR` (R30, R173). -/
theorem faultStatus_clear (c : Cause) (info : Byte) :
    faultStatus 0 c info = 1 ||| (causeCode c).setWidth 32 <<< 8 ||| info.setWidth 32 <<< 16 := by
  have hfault : insertField 0 0 1#1 = 1 := by decide
  have hcause : insertField 1 8 (causeCode c) = 1 ||| (causeCode c).setWidth 32 <<< 8 :=
    insertField_of_clear _ (by decide)
  rw [faultStatus, hfault, hcause]
  exact insertField_of_clear _ (by cases c <;> decide)

/-- A command whose operand check fails while IDLE raises the fault of its cause. -/
theorem exec_fault {i : Instr} {s : State} {c : Cause} (hs : s.seq = .idle) (hc : operandFault s.params i = some c) :
    exec i s = .next (raiseFault c (operandA i) (s.setCmd (encode i))) := by
  obtain ⟨sq, hsq, _⟩ := exec_runs i
  rw [hsq, runCommand_fault hs hc]

/-- Settles O7. -/
theorem failedOperandCheckFaults : Obligations.FailedOperandCheckFaults :=
  ⟨fun _ _ _ => exec_fault, faultStatus_clear, rfl, rfl, rfl, rfl⟩

/-! ## A word that meets no row (R64, R65) -/

/-- R65: a word that meets no row of the opcode table is no command. -/
theorem decode_of_meets_no_row {w : Word} (h : ∀ r ∈ opcodeTable, w &&& r.mask ≠ r.pattern) :
    ∃ e, decode w = .error e := by
  cases hd : decode w with
  | error e => exact ⟨e, rfl⟩
  | ok i =>
    obtain ⟨rfl, hwf⟩ := (decode_eq_ok_iff w i).1 hd
    exact absurd (encode_meets_tableRow hwf) (h _ (tableRow_mem i))

/-- R64: a word that is no command raises ILLEGAL_COMMAND while IDLE. -/
theorem startWord_illegal {w : Word} {e : DecodeError} (hd : decode w = .error e) {s : State} (hs : s.seq = .idle) :
    startWord w s = .next (raiseFault .illegalCommand (bitField w 0 8) (s.setCmd w)) := by
  simp only [startWord, hd, illegalCommand, hs]

/-- Settles O6: the port serves the write, and the word starts no command. -/
theorem illegalWordFaults : Obligations.IllegalWordFaults := by
  intro w s ts rest hs ht hscript hrows
  obtain ⟨e, hd⟩ := decode_of_meets_no_row hrows
  rw [step_serves (.inl hs) ht hscript, serveAccess_write_cmd]
  exact startWord_illegal (s := (s.setTurns ts).setScript rest) hd hs

end Sys2Proof.Machine
end

section
/-! PROOFS. Hangs: a command whose wait a silent environment never answers (spec/30_encoding.md R67,
spec/60_exceptions.md R177, spec/70_reset_and_hazards.md R193). -/

namespace Sys2Proof.Machine

/-! ## A wait that nothing answers (R67) -/

/-- Where the environment is silent a condition that does not hold is waited for until the turns end. -/
theorem await_unanswered {c : State → Bool} {ts : List Turn} {s : State} (hu : Unbroken ts) (hq : Silent ts)
    (hc : c s = false) : await c ts s = (false, s.setTurns []) := by
  induction ts with
  | nil => rw [await_nil, hc]
  | cons t ts ih =>
    cases t with
    | go => rw [await_go, if_neg (by simp [hc])]; exact ih hu.tail hq.tail
    | env e => exact absurd (by simp) (hq e)
    | reset => exact absurd (by simp) hu.1
    | hold => exact absurd (by simp) hu.2

/-- The engine stops before such a wait. -/
theorem run_wait_unanswered {c : State → Bool} {s : State} (hu : Unbroken s.turns) (hq : Silent s.turns)
    (hc : c s = false) (ms : List Micro) (k : Nat) : run (.wait c :: ms) 0 k s = s.setTurns [] := by
  rw [run_wait, await_unanswered hu hq hc]
  rfl

/-! ## Micro-operations that write a register -/

/-- The effect is a register write, and at most a change of the temporaries beside it. -/
def WritesRegister (f : State → State) : Prop := ∀ s, ∃ r v t, f s = writeReg r v (s.setTemps t)

theorem writesRegister_writeReg (r : Reg) (v : State → Word) : WritesRegister fun s => writeReg r (v s) s :=
  fun s => ⟨r, v s, s.temps, by rw [State.setTemps_self]⟩

/-- No register write moves the sequencer. -/
theorem writeReg_seq (r : Reg) (v : Word) (s : State) : (writeReg r v s).seq = s.seq := by
  cases r with
  | pcr => simp [pcrWrite_eq]
  | _ => rfl

/-! ## A command on its way to a wait -/

/-- `u` is a state in which command `i` runs, no turn is left that breaks it off or answers it, and what a hang leaves
alone is as in `s`. -/
structure Underway (i : Instr) (s u : State) : Prop where
  running : ∃ k t, u.seq = .run (encode i) k t
  unbroken : Unbroken u.turns
  silent : Silent u.turns
  params : u.params = s.params
  fsr : u.fsr = s.fsr
  mckcache : u.mckcache = s.mckcache
  script : u.script = s.script

section
variable {i : Instr} {s u : State}

theorem Underway.setTurns (h : Underway i s u) {ts : List Turn} (hu : Unbroken ts) (hq : Silent ts) :
    Underway i s (u.setTurns ts) :=
  ⟨h.running, hu, hq, h.params, h.fsr, h.mckcache, h.script⟩

theorem Underway.setTemps (h : Underway i s u) (t : Temps) : Underway i s (u.setTemps t) := by
  obtain ⟨k, t', hseq⟩ := h.running
  rw [State.setTemps_run hseq]
  exact ⟨⟨k, t, rfl⟩, h.unbroken, h.silent, h.params, h.fsr, h.mckcache, h.script⟩

theorem Underway.writeReg (h : Underway i s u) (r : Reg) (v : Word) : Underway i s (writeReg r v u) := by
  obtain ⟨hfsr, hmemo, hparams, hturns⟩ := writeReg_frame r v u
  obtain ⟨hscript, _⟩ := writeReg_host r v u
  exact ⟨by rw [writeReg_seq]; exact h.running, by rw [hturns]; exact h.unbroken, by rw [hturns]; exact h.silent,
    hparams.trans h.params, hfsr.trans h.fsr, hmemo.trans h.mckcache, hscript.trans h.script⟩

theorem Underway.effect (h : Underway i s u) {f : State → State} (hf : WritesRegister f) : Underway i s (f u) := by
  obtain ⟨r, v, t, heq⟩ := hf u
  rw [heq]
  exact (h.setTemps t).writeReg r v

theorem Underway.setIndex (h : Underway i s u) (k : Nat) :
    Underway i s (u.setIndex k) ∧ ∃ t, (u.setIndex k).seq = .run (encode i) k t := by
  obtain ⟨k', t, hseq⟩ := h.running
  rw [State.setIndex_run hseq]
  exact ⟨⟨⟨k, t, rfl⟩, h.unbroken, h.silent, h.params, h.fsr, h.mckcache, h.script⟩, t, rfl⟩

/-- The engine makes a register write on its way: it goes on at the next index, from a state whose `SR` is what the
write leaves of the one before. -/
theorem Underway.run_act (h : Underway i s u) {f : State → State} (hf : WritesRegister f) (ms : List Micro) (k : Nat) :
    ∃ u', run (.act f :: ms) 0 k u = run ms 0 (k + 1) u' ∧ Underway i s u' ∧
      (∃ t, u'.seq = .run (encode i) (k + 1) t) ∧ ∃ x : State, x.sr = u.sr ∧ u'.sr = (f x).sr := by
  obtain ⟨sr, ts, hrun, hu, hsub, hsr⟩ := run_act_unbroken f ms k u h.unbroken
  obtain rfl := hsr h.silent
  have hturns : Underway i s (u.setTurns ts) := h.setTurns hu fun e m => h.silent e (hsub _ m)
  obtain ⟨hway, hindex⟩ := (hturns.effect hf).setIndex (k + 1)
  exact ⟨_, hrun, hway, hindex, u.setTurns ts, rfl, State.setIndex_sr _ _⟩

end

/-! ## The hang (R177) -/

/-- What R67 and R177 say of a hang: the command stays in progress, and `FSR`, the memoised word and the host's accesses
are as they were. -/
def Hangs (i : Instr) (s : State) : Prop :=
  ∃ t, exec i s = .next t ∧ Hung t ∧ t.fsr = s.fsr ∧ t.mckcache = s.mckcache ∧ t.script = s.script

/-- Command `i` starts in `s` with the sequence `sq`, and the environment will be silent. -/
structure Starts (i : Instr) (sq : List Micro) (s : State) : Prop where
  idle : s.seq = .idle
  unbroken : Unbroken s.turns
  silent : Silent s.turns
  legal : i.WellFormed
  passes : operandFault s.params i = none
  meaning : ∀ t, t.params = s.params → exec i t = .next (runCommand i sq t)

section
variable {i : Instr} {sq : List Micro} {s u : State}

/-- The state in which the engine takes up the sequence (R64). -/
theorem Starts.underway (h : Starts i sq s) :
    Underway i s ((s.setCmd (encode i)).setSeq (.run (encode i) 0 {})) :=
  ⟨⟨0, {}, rfl⟩, h.unbroken, h.silent, rfl, rfl, rfl, rfl⟩

theorem Starts.runs (h : Starts i sq s) :
    exec i s = .next (run sq 0 0 ((s.setCmd (encode i)).setSeq (.run (encode i) 0 {}))) := by
  rw [h.meaning s rfl, runCommand_idle h.idle h.passes]

/-- A state at a wait that does not hold, with no turn left, is a hang: the step runs the command from that wait. -/
theorem Starts.hung (h : Starts i sq s) {g : Word → Bool} {ms : List Micro} {k : Nat} {t : Temps}
    (hk : sq.drop k = .wait (fun v => g v.sr) :: ms) (hseq : u.seq = .run (encode i) k t) (hts : u.turns = [])
    (hp : u.params = s.params) (hg : g u.sr = false) : Hung u := by
  refine ⟨⟨_, k, t, hseq⟩, ?_⟩
  have hd : decode (encode i) = .ok i := decode_encode h.legal
  have hstep : step u = exec i u := by
    rcases step_run_cases hseq (by simp [hts]) with ⟨j, hj, hstep⟩ | ⟨e, he, _⟩
    · obtain rfl : i = j := Except.ok.inj (hd.symm.trans hj)
      exact hstep
    · exact absurd (hd.symm.trans he) (by simp)
  have hu : Unbroken u.turns ∧ Silent u.turns := by simp [hts, Unbroken, Silent]
  rw [hstep, h.meaning u hp, runCommand_run hseq, hk,
    run_wait_unanswered (c := fun v => g v.sr) hu.1 hu.2 hg, State.setTurns_nil_self hts]

/-- A command that comes to a register write with a wait behind it, and whose write leaves `SR` such that the condition
does not hold, hangs. -/
theorem Starts.hangs (h : Starts i sq s) {k : Nat} (hway : Underway i s u)
    (hreach : exec i s = .next (run (sq.drop k) 0 k u)) {f : State → State} {g : Word → Bool} {ms : List Micro}
    (hk : sq.drop k = .act f :: .wait (fun v => g v.sr) :: ms) (hf : WritesRegister f)
    (hg : ∀ x : State, x.sr = u.sr → g (f x).sr = false) : Hangs i s := by
  obtain ⟨u', hrun, hway', ⟨t, hseq⟩, x, hx, hsr⟩ := hway.run_act hf (.wait (fun v => g v.sr) :: ms) k
  have hlow : g u'.sr = false := hsr ▸ hg x hx
  have hwait : sq.drop (k + 1) = .wait (fun v => g v.sr) :: ms := by
    rw [← List.drop_drop, hk]
    rfl
  refine ⟨u'.setTurns [], ?_, h.hung hwait hseq rfl hway'.params hlow, hway'.fsr, hway'.mckcache, hway'.script⟩
  rw [hreach, hk, hrun, run_wait_unanswered (c := fun v => g v.sr) hway'.unbroken hway'.silent hlow]

/-- A command whose sequence begins with such a write hangs at its first wait. -/
theorem Starts.hangs_at_once (h : Starts i sq s) {f : State → State} {g : Word → Bool} {ms : List Micro}
    (hsq : sq = .act f :: .wait (fun v => g v.sr) :: ms) (hf : WritesRegister f)
    (hg : ∀ x : State, x.sr = s.sr → g (f x).sr = false) : Hangs i s :=
  h.hangs (k := 0) h.underway h.runs hsq hf hg

/-- A command whose sequence begins with an `if` around such a write hangs where the condition holds. -/
theorem Starts.hangs_in_branch (h : Starts i sq s) {c : State → Bool} {n : Nat} {f : State → State} {g : Word → Bool}
    {ms : List Micro} (hsq : sq = .ifThen c n :: .act f :: .wait (fun v => g v.sr) :: ms)
    (hc : c ((s.setCmd (encode i)).setSeq (.run (encode i) 0 {})) = true) (hf : WritesRegister f)
    (hg : ∀ x : State, x.sr = s.sr → g (f x).sr = false) : Hangs i s := by
  subst hsq
  refine h.hangs (k := 1) h.underway ?_ rfl hf hg
  rw [h.runs, run_ifThen, if_pos hc]
  rfl

/-! ## The commands that can hang (R177) -/

/-- `MCKRDY` as a bit of `SR`. -/
def mckrdyOf (sr : Word) : Bool := bitSet sr mckrdyBit

/-- A write of `MCKR` leaves `MCKRDY` 0. -/
theorem mckrdyOf_writeReg (v : Word) (x : State) : mckrdyOf (writeReg .mckr v x).sr = false :=
  lowerBit_self x.sr mckrdyBit_lt

/-- A command that begins with the pattern of the switching family (R100 to R104). -/
theorem Starts.hangs_of_changeMckr {v : State → Word} {rest : List Micro} (h : Starts i (changeMckr v ++ rest) s) :
    Hangs i s :=
  h.hangs_at_once (g := mckrdyOf) rfl (writesRegister_writeReg .mckr v) fun x _ => mckrdyOf_writeReg (v x) x

/-- R105: `SETPLLADIV2` where it writes. -/
theorem Starts.hangs_setplladiv2 {a : Byte} (h : Starts (.setplladiv2 a) (seqSetplladiv2 a) s)
    (hne : bitField s.mckr 12 1 ≠ a.setWidth 1) : Hangs (.setplladiv2 a) s :=
  h.hangs_in_branch (g := mckrdyOf) rfl (bne_iff_ne.2 hne) (writesRegister_writeReg .mckr _)
    fun x _ => mckrdyOf_writeReg _ x

/-- R106, R107: the oscillator switch from the slow clock, at its first write. -/
theorem Starts.hangs_switchSlowOscillator {p : Params} {sel : BitVec 1} (h : Starts i (switchSlowOscillator p sel) s)
    (hslow : bitField s.mckr 0 2 = 0) : Hangs i s :=
  h.hangs_in_branch (g := mckrdyOf) rfl (beq_iff_eq.2 hslow) (fun _ => ⟨.mckr, _, _, rfl⟩)
    fun _ _ => mckrdyOf_writeReg _ _

/-- R120: `SETPLLA`, whose write of `PLLAR` leaves `LOCKA` 0. -/
theorem Starts.hangs_setplla (h : Starts .setplla seqSetplla s) : Hangs .setplla s := by
  obtain ⟨u, hrun, hway, _, x, _, hsr⟩ :=
    h.underway.run_act (writesRegister_writeReg .pllar fun s => s.arg0) (seqSetplla.drop 1) 0
  refine h.hangs (k := 1) (g := fun sr => bitSet sr lockaBit) hway ?_ rfl
    (writesRegister_writeReg .cpr fun s => s.arg1) fun y hy => ?_
  · rw [h.runs, ← hrun]
    rfl
  · show bitSet y.sr lockaBit = false
    rw [hy, hsr]
    exact lowerBit_self x.sr lockaBit_lt

/-- R152: `ENPCK` of a unit that is not ready. -/
theorem Starts.hangs_enpck {a : Byte} (h : Starts (.enpck a) (seqEnpck a) s) (hlow : s.pckrdy (pckUnit a) = false) :
    Hangs (.enpck a) s := by
  refine h.hangs_at_once (g := fun sr => bitSet sr (pckrdyBit (pckUnit a))) rfl (writesRegister_writeReg .pckenr _)
    fun x hx => ?_
  show bitSet x.sr _ = false
  rw [hx]
  exact hlow

/-- R151, R153: a command that begins with the disabling of a unit that is ready. -/
theorem Starts.hangs_of_callDispck {n : Fin 3} {rest : List Micro} (h : Starts i (callDispck n ++ rest) s)
    (hhigh : s.pckrdy n = true) : Hangs i s := by
  refine h.hangs_at_once (g := fun sr => !bitSet sr (pckrdyBit n)) rfl (writesRegister_writeReg .pckenr _)
    fun x hx => ?_
  show (!bitSet x.sr _) = false
  rw [hx, Bool.not_eq_false']
  exact hhigh

end

/-- R62: the operand of a unit names the unit. -/
theorem pckUnit_ofNat : ∀ n : Fin 3, pckUnit (BitVec.ofNat 8 n.val) = n := by decide

/-- R70: the operand of a unit passes the check. -/
theorem unit_check (n : Fin 3) (c : Cause) :
    (if (BitVec.ofNat 8 n.val).toNat ≤ 2 then none else some c) = none := by
  refine if_pos ?_
  revert n
  decide

/-- Settles O58: each command by the wait it comes to first. -/
theorem unansweredCommandsHang : Obligations.UnansweredCommandsHang := by
  intro i s a b c n hs hu hq hi
  rcases hi with rfl | rfl | rfl | rfl | ⟨rfl, ha⟩ | ⟨rfl, ha⟩ | ⟨rfl, ha, hne⟩ | ⟨rfl | rfl, hslow⟩ | ⟨rfl, hlow⟩ |
    ⟨rfl, hhigh⟩ | ⟨rfl, hb, hhigh⟩
  · exact Starts.hangs_of_changeMckr ⟨hs, hu, hq, rfl, rfl, fun _ _ => rfl⟩
  · exact Starts.hangs_of_changeMckr ⟨hs, hu, hq, rfl, rfl, fun _ _ => rfl⟩
  · exact Starts.hangs_of_changeMckr ⟨hs, hu, hq, rfl, rfl, fun _ _ => rfl⟩
  · exact Starts.hangs_setplla ⟨hs, hu, hq, rfl, rfl, fun _ _ => rfl⟩
  · exact Starts.hangs_of_changeMckr ⟨hs, hu, hq, rfl, if_pos ha, fun _ _ => rfl⟩
  · exact Starts.hangs_of_changeMckr ⟨hs, hu, hq, rfl, if_pos ha, fun _ _ => rfl⟩
  · exact Starts.hangs_setplladiv2 ⟨hs, hu, hq, rfl, if_pos ha, fun _ _ => rfl⟩ hne
  · exact Starts.hangs_switchSlowOscillator (p := s.params) (sel := 1)
      ⟨hs, hu, hq, rfl, rfl, fun t ht => by rw [← ht]; rfl⟩ hslow
  · exact Starts.hangs_switchSlowOscillator (p := s.params) (sel := 0)
      ⟨hs, hu, hq, rfl, rfl, fun t ht => by rw [← ht]; rfl⟩ hslow
  · exact Starts.hangs_enpck ⟨hs, hu, hq, rfl, unit_check n _, fun _ _ => rfl⟩ (by rw [pckUnit_ofNat]; exact hlow)
  · exact Starts.hangs_of_callDispck ⟨hs, hu, hq, rfl, unit_check n _, fun _ _ => rfl⟩
      (by rw [pckUnit_ofNat]; exact hhigh)
  · exact Starts.hangs_of_callDispck
      ⟨hs, hu, hq, (cfgpck_wellFormed_iff _ _ _).2 hb, unit_check n _, fun _ _ => rfl⟩
      (by rw [pckUnit_ofNat]; exact hhigh)

end Sys2Proof.Machine
end

section
/-! PROOFS. The frequency derivation as numbers, and the queries and `INVAL` as whole commands
(spec/40_frequency_derivation.md R80 to R95). -/

namespace Sys2Proof.Machine

/-! ## The stages as numbers (R84, R85) -/

/-- R85: the inverse factor undoes a division, which is by 1, 2, 4 or 3. -/
theorem mdivApply_eq_div_factor (e : BitVec 2) (f : Word) :
    (mdivApply e f).toNat = f.toNat / (mdivFactor e).toNat := by
  unfold mdivApply mdivFactor
  split
  · exact (Nat.div_one _).symm
  · split
    · rw [BitVec.toNat_ushiftRight, Nat.shiftRight_eq_div_pow]
      rfl
    · split
      · rw [BitVec.toNat_ushiftRight, Nat.shiftRight_eq_div_pow]
        rfl
      · exact BitVec.toNat_udiv

/-- R84: the prescaler stage divides by a power of two; the eighth encoding passes the frequency through. -/
theorem presApply_toNat (e : BitVec 3) (f : Word) :
    (presApply e f).toNat = if e.toNat ≤ 6 then f.toNat / 2 ^ e.toNat else f.toNat := by
  unfold presApply
  split
  · rw [BitVec.toNat_ushiftRight, Nat.shiftRight_eq_div_pow]
  · rfl

/-- Settles O24: the divider's encodings are four cases of `mdivApply_eq_div_factor`. -/
theorem prescalerAndDividerStages : Obligations.PrescalerAndDividerStages := by
  intro f
  refine ⟨fun e => presApply_toNat e f, rfl, ?_, ?_, ?_, rfl, rfl, rfl, rfl⟩
  · exact mdivApply_eq_div_factor 1 f
  · exact mdivApply_eq_div_factor 2 f
  · exact mdivApply_eq_div_factor 3 f

theorem mdivFactor_pos (e : BitVec 2) : 0 < (mdivFactor e).toNat := by
  revert e
  decide

/-- R200: the multiplication back up does not wrap, its product being no larger than the frequency. -/
theorem mdivApply_mul_factor_toNat (e : BitVec 2) (f : Word) :
    (mdivApply e f * mdivFactor e).toNat = f.toNat / (mdivFactor e).toNat * (mdivFactor e).toNat := by
  rw [BitVec.toNat_mul, mdivApply_eq_div_factor]
  exact Nat.mod_eq_of_lt (Nat.lt_of_le_of_lt (Nat.div_mul_le_self _ _) f.isLt)

/-- Settles O27: a quotient times its divisor against the dividend. -/
theorem reconstructedProcessorClockBound : Obligations.ReconstructedProcessorClockBound := by
  intro e f
  rw [mdivApply_mul_factor_toNat]
  exact ⟨Nat.div_mul_le_self _ _, Nat.lt_div_mul_add (mdivFactor_pos e)⟩

/-! ## The sources (R80 to R83) -/

/-- A field of one bit is 1 where the bit is set. -/
theorem bitField_one_eq_one_iff (w : Word) (i : Nat) : bitField w i 1 = 1 ↔ bitSet w i = true := by
  have one : ∀ x : BitVec 1, x = 1 ↔ x.getLsbD 0 = true := by decide
  rw [one, bitField_getLsbD w i 1 0 Nat.zero_lt_one]
  rfl

/-- R83: a source-select code above 2 is not recognised. -/
theorem fSrc_unrecognised {c : Nat} (h : 3 ≤ c) (s : State) : fSrc c s = 0 := by
  unfold fSrc
  rw [if_neg (by omega), if_neg (by omega), if_neg (by omega)]

/-- Settles O25: the oscillator selects are bits, and the codes are those of `fSrc`. -/
theorem masterClockChain : Obligations.MasterClockChain := fun s =>
  ⟨if_congr (bitField_one_eq_one_iff s.oscr 0) rfl rfl, if_congr (bitField_one_eq_one_iff s.oscr 1) rfl rfl,
    rfl, rfl, rfl, fun _ h => fSrc_unrecognised h s, rfl⟩

/-! ## The PLLA output (R82, R94, R95) -/

/-- The multiplier is a field of 7 bits and one more. -/
theorem multiplier_toNat (m : BitVec 7) : (m.setWidth 32 + 1).toNat = m.toNat + 1 := by
  have hm := m.isLt
  rw [BitVec.toNat_add, BitVec.toNat_setWidth]
  show (m.toNat % 2 ^ 32 + 1) % 2 ^ 32 = m.toNat + 1
  omega

/-- The optional halving. -/
theorem halve_toNat (half : BitVec 1) (g : Word) :
    (if half = 1 then g >>> 1 else g).toNat = g.toNat / (if half = 1 then 2 else 1) := by
  split
  · rw [BitVec.toNat_ushiftRight, Nat.shiftRight_eq_div_pow]
  · exact (Nat.div_one _).symm

/-- R82, R94: the multiply and divide stage as a number, its product modulo 2^32. -/
theorem pllDerive_toNat (pllar : Word) (half : BitVec 1) (f : Word) :
    (pllDerive pllar half f).toNat =
      if (pllarDiva pllar).toNat = 0 then 0
      else
        f.toNat * ((pllarMula pllar).toNat + 1) % 2 ^ 32 / (pllarDiva pllar).toNat / (if half = 1 then 2 else 1) := by
  have hzero : pllarDiva pllar = 0 ↔ (pllarDiva pllar).toNat = 0 := BitVec.toNat_inj.symm
  have hdiv : ((pllarDiva pllar).setWidth 32).toNat = (pllarDiva pllar).toNat :=
    BitVec.toNat_setWidth_of_le (by omega)
  unfold pllDerive
  by_cases h : pllarDiva pllar = 0
  · rw [if_pos h, if_pos (hzero.1 h)]
    rfl
  · rw [if_neg h, if_neg (mt hzero.2 h), halve_toNat, BitVec.toNat_udiv, BitVec.toNat_mul, multiplier_toNat, hdiv]

/-- R95: up to 33,554,431 Hz the product of a frequency and the largest multiplier, 128, fits a word. -/
theorem product_lt_of_le {f : Nat} (hf : f ≤ 33554431) (m : BitVec 7) : f * (m.toNat + 1) < 2 ^ 32 :=
  calc f * (m.toNat + 1) ≤ 33554431 * 128 := Nat.mul_le_mul hf m.isLt
    _ < 2 ^ 32 := by decide

/-- Settles O26. -/
theorem pllaOutputValue : Obligations.PllaOutputValue := by
  intro s m d h
  have hhalf : (if mckrPlladiv2 s.mckr = 1 then 2 else 1) = h :=
    if_congr (bitField_one_eq_one_iff s.mckr 12) rfl rfl
  have hvalue : (fPlla s).toNat = if d = 0 then 0 else (fMain s).toNat * (m + 1) % 2 ^ 32 / d / h := by
    rw [← hhalf]
    exact pllDerive_toNat _ _ _
  refine ⟨hvalue, fun hmain => ?_⟩
  rw [hvalue, Nat.mod_eq_of_lt (product_lt_of_le hmain _)]

/-! ## Commands that the environment has no part in

A command without a wait, of which no micro-operation reads or writes `SR`, does with unbroken turns what it does alone,
with no turn listed, but for `SR` and the turns left over. -/

/-- The micro-operation neither waits nor depends on `SR` and the turns, which it leaves alone. -/
def Micro.IgnoresEnv : Micro → Prop
  | .act f => ∀ (s : State) sr ts, f ((s.setSr sr).setTurns ts) = ((f s).setSr sr).setTurns ts
  | .wait _ => False
  | .ifThen c _ => ∀ (s : State) sr ts, c ((s.setSr sr).setTurns ts) = c s
  | .done => True

theorem setIndex_setSr_setTurns (s : State) (sr : Word) (ts : List Turn) (k : Nat) :
    ((s.setSr sr).setTurns ts).setIndex k = ((s.setIndex k).setSr sr).setTurns ts := by
  unfold State.setIndex
  simp only [State.setTurns_seq, State.setSr_seq]
  split <;> rfl

theorem setTemps_setSr_setTurns (s : State) (sr : Word) (ts : List Turn) (t : Temps) :
    ((s.setSr sr).setTurns ts).setTemps t = ((s.setTemps t).setSr sr).setTurns ts := by
  unfold State.setTemps
  simp only [State.setTurns_seq, State.setSr_seq]
  split <;> rfl

/-- Such an effect leaves the turns alone. -/
theorem Micro.IgnoresEnv.act_turns {f : State → State} (h : (Micro.act f).IgnoresEnv) (s : State) :
    (f s).turns = s.turns := by
  have hself : f s = ((f s).setSr s.sr).setTurns s.turns := h s s.sr s.turns
  rw [hself]
  rfl

/-- With no turn listed the engine carries out an effect at once. -/
theorem run_act_alone {s : State} (h : s.turns = []) (f : State → State) (ms : List Micro) (k : Nat) :
    run (.act f :: ms) 0 k s = run ms 0 (k + 1) ((f s).setIndex (k + 1)) := by
  rw [run_act, h, await_nil, State.setTurns_nil_self h]
  rfl

/-- With no turn listed the engine ends a command at once. -/
theorem run_done_alone {s : State} (h : s.turns = []) (ms : List Micro) (k : Nat) :
    run (.done :: ms) 0 k s = s.setSeq .idle := by
  rw [run_done, h, await_nil, State.setTurns_nil_self h]
  rfl

/-- The engine with unbroken turns against the engine alone. -/
theorem run_ignoring_env {ms : List Micro} (hms : ∀ m ∈ ms, m.IgnoresEnv) (n k : Nat) {s : State}
    (hs : s.turns = []) (sr : Word) {ts : List Turn} (hts : Unbroken ts) :
    ∃ sr' ts', run ms n k ((s.setSr sr).setTurns ts) = ((run ms n k s).setSr sr').setTurns ts' ∧
      (Silent ts → sr' = sr) := by
  induction ms generalizing n k s sr ts with
  | nil => exact ⟨sr, ts, rfl, fun _ => rfl⟩
  | cons m ms ih =>
    have hm : m.IgnoresEnv := hms m (by simp)
    have ih := ih fun m h => hms m (by simp [h])
    cases n with
    | succ n => exact ih n (k + 1) hs sr hts
    | zero =>
      cases m with
      | act f =>
        obtain ⟨sr₁, ts₁, hrun, hts₁, hsub, hsr₁⟩ := run_act_unbroken f ms k ((s.setSr sr).setTurns ts) hts
        have hturns : ((f s).setIndex (k + 1)).turns = [] := by
          rw [State.setIndex_turns, Micro.IgnoresEnv.act_turns hm, hs]
        obtain ⟨sr', ts', hrest, hsr'⟩ := ih 0 (k + 1) hturns sr₁ hts₁
        refine ⟨sr', ts', ?_, fun q => (hsr' fun e he => q e (hsub _ he)).trans (hsr₁ q)⟩
        rw [run_act_alone hs, ← hrest, hrun, ← setIndex_setSr_setTurns, ← hm s sr₁ ts₁]
        rfl
      | wait c => exact hm.elim
      | ifThen c j =>
        rw [run_ifThen, run_ifThen, hm s sr ts]
        exact ih _ _ hs sr hts
      | done =>
        obtain ⟨sr', ts', hrun, _, hsr'⟩ := run_done_unbroken ms k ((s.setSr sr).setTurns ts) hts
        refine ⟨sr', ts', ?_, hsr'⟩
        rw [hrun, run_done_alone hs]
        rfl

/-- Command `i` is written in `s`, passes its check and has the sequence `sq`, and nothing will break it off. -/
structure Begins (i : Instr) (sq : List Micro) (s : State) : Prop where
  idle : s.seq = .idle
  unbroken : Unbroken s.turns
  passes : operandFault s.params i = none
  meaning : exec i s = .next (runCommand i sq s)

/-- Such a command, if the environment has no part in it, completes with what it does alone. -/
theorem Begins.completes {i : Instr} {sq : List Micro} {s u : State} (h : Begins i sq s)
    (hsq : ∀ m ∈ sq, m.IgnoresEnv)
    (alone : run sq 0 0 (((s.setTurns []).setCmd (encode i)).setSeq (.run (encode i) 0 {})) =
      (u.setTurns []).setSeq .idle) (hu : u.seq = .idle) :
    ∃ sr ts, exec i s = .next ((u.setSr sr).setTurns ts) ∧ (Silent s.turns → sr = s.sr) := by
  obtain ⟨sr, ts, hrun, hsr⟩ := run_ignoring_env hsq 0 0
    (s := ((s.setTurns []).setCmd (encode i)).setSeq (.run (encode i) 0 {})) rfl s.sr h.unbroken
  have hidle : u.setSeq .idle = u := by rw [← hu]; rfl
  refine ⟨sr, ts, ?_, hsr⟩
  calc exec i s
      = .next (run sq 0 0 ((s.setCmd (encode i)).setSeq (.run (encode i) 0 {}))) := by
        rw [h.meaning, runCommand_idle h.idle h.passes]
    _ = .next ((((u.setTurns []).setSeq .idle).setSr sr).setTurns ts) := by
        rw [← alone, ← hrun]
        rfl
    _ = .next (((u.setSeq .idle).setSr sr).setTurns ts) := rfl
    _ = .next ((u.setSr sr).setTurns ts) := by rw [hidle]

/-! ## The source queries and `INVAL` (R89, R91 to R93) -/

theorem ignoresEnv_done : Micro.IgnoresEnv .done := trivial

theorem ignoresEnv_microInval : microInval.IgnoresEnv := fun _ _ _ => rfl

/-- A value that does not come from `SR` put into `RESULT`. -/
theorem ignoresEnv_microRes {v : State → Word} (h : ∀ (s : State) sr ts, v ((s.setSr sr).setTurns ts) = v s) :
    (microRes v).IgnoresEnv := fun s sr ts =>
  congrArg ((s.setSr sr).setTurns ts).setResult (h s sr ts)

/-- The value is one of the configuration: it does not depend on `CMD`, `SR`, the sequencer and the turns. -/
def OfConfiguration (v : State → Word) : Prop :=
  ∀ (s : State) cmd sr seq ts, v ((((s.setCmd cmd).setSr sr).setSeq seq).setTurns ts) = v s

/-- R80 to R82: the sources are values of the configuration. -/
theorem sources_ofConfiguration : OfConfiguration fSlow ∧ OfConfiguration fMain ∧ OfConfiguration fPlla :=
  ⟨fun _ _ _ _ _ => rfl, fun _ _ _ _ _ => rfl, fun _ _ _ _ _ => rfl⟩

/-- A query that is one `res` of such a value completes with it. -/
theorem Begins.completes_res {i : Instr} {v : State → Word} {s : State} (h : Begins i [microRes v, .done] s)
    (hv : OfConfiguration v) :
    ∃ sr ts, exec i s = .next ((((s.setCmd (encode i)).setResult (v s)).setSr sr).setTurns ts) ∧
      (Silent s.turns → sr = s.sr) := by
  have result : (microRes v).IgnoresEnv := ignoresEnv_microRes fun s sr ts => hv s s.cmd sr s.seq ts
  refine h.completes (by simpa using ⟨result, ignoresEnv_done⟩) ?_ h.idle
  rw [← hv s (encode i) s.sr (.run (encode i) 0 {}) []]
  rfl

/-- Settles O28. -/
theorem sourceQueriesComplete : Obligations.SourceQueriesComplete := by
  obtain ⟨slow, main, plla⟩ := sources_ofConfiguration
  rintro s i v hs hts (⟨rfl, rfl⟩ | ⟨rfl, rfl⟩ | ⟨rfl, rfl⟩)
  · exact Begins.completes_res ⟨hs, hts, rfl, rfl⟩ slow
  · exact Begins.completes_res ⟨hs, hts, rfl, rfl⟩ main
  · exact Begins.completes_res ⟨hs, hts, rfl, rfl⟩ plla

/-- Settles O31. -/
theorem invalCompletes : Obligations.InvalCompletes := by
  intro s hs hts
  have hsq : ∀ m ∈ seqInval, m.IgnoresEnv := by
    simpa [seqInval] using ⟨ignoresEnv_microInval, ignoresEnv_done⟩
  exact Begins.completes (u := (s.setCmd (encode .inval)).setMckcache 0) ⟨hs, hts, rfl, rfl⟩ hsq rfl hs

/-! ## `GETMCK` and `GETCPU` (R87, R88) -/

/-- R87: the memoised word, or the master clock derived anew where it is 0. -/
def memoOrDerived (s : State) : Word := if s.mckcache = 0 then mckCompute s else s.mckcache

/-- R87, R68: the `if` of `GETMCK`, alone: the memoised word is filled where it was 0, and the engine comes to what the
caller does with it. -/
theorem run_callGetmck_alone {s : State} (h : s.turns = []) {w : Word} {j : Nat} {t : Temps} (hs : s.seq = .run w j t)
    (dest : Micro) (rest : List Micro) (k : Nat) :
    ∃ j', run (callGetmck dest ++ rest) 0 k s =
      run (dest :: rest) 0 (k + 2) ((s.setMckcache (memoOrDerived s)).setSeq (.run w j' t)) := by
  unfold memoOrDerived
  show ∃ j', run (.ifThen _ 1 :: .act _ :: dest :: rest) 0 k s = _
  rw [run_ifThen]
  by_cases hc : s.mckcache = 0
  · refine ⟨k + 2, ?_⟩
    rw [if_pos (by simpa using hc), if_pos hc, run_act_alone h,
      State.setIndex_run (s := s.setMckcache (mckCompute s)) hs]
  · refine ⟨j, ?_⟩
    rw [if_neg (by simpa using hc), if_neg hc, run_skip, ← hs]
    rfl

/-- The environment has no part in a call of `GETMCK` whose value goes where it has no part either. -/
theorem ignoresEnv_callGetmck {dest : Micro} (hd : dest.IgnoresEnv) : ∀ m ∈ callGetmck dest, m.IgnoresEnv := by
  have test : (Micro.ifThen (fun s => s.mckcache == 0) 1).IgnoresEnv := fun _ _ _ => rfl
  have fill : (Micro.act fun s => s.setMckcache (mckCompute s)).IgnoresEnv := fun _ _ _ => rfl
  simpa [callGetmck] using ⟨test, fill, hd⟩

theorem ignoresEnv_microKeepMck : microKeepMck.IgnoresEnv := fun s sr ts =>
  setTemps_setSr_setTurns s sr ts { s.temps with t := s.mckcache }

/-- A command that calls `GETMCK` first, the environment having no part in the rest, completes with what the rest does
alone from the memoised word. -/
theorem Begins.completes_callGetmck {i : Instr} {dest : Micro} {rest : List Micro} {s u : State}
    (h : Begins i (callGetmck dest ++ rest) s) (hd : dest.IgnoresEnv) (hrest : ∀ m ∈ rest, m.IgnoresEnv)
    (alone : ∀ j, run (dest :: rest) 0 2
      ((((s.setTurns []).setCmd (encode i)).setMckcache (memoOrDerived s)).setSeq (.run (encode i) j {})) =
        (u.setTurns []).setSeq .idle) (hu : u.seq = .idle) :
    ∃ sr ts, exec i s = .next ((u.setSr sr).setTurns ts) ∧ (Silent s.turns → sr = s.sr) := by
  refine h.completes (fun m hm => ?_) ?_ hu
  · exact (List.mem_append.1 hm).elim (ignoresEnv_callGetmck hd m) (hrest m)
  · obtain ⟨j, hcall⟩ := run_callGetmck_alone
      (s := ((s.setTurns []).setCmd (encode i)).setSeq (.run (encode i) 0 {})) rfl rfl dest rest 0
    exact hcall.trans (alone j)

/-- Settles O29. -/
theorem getmckCompletes : Obligations.GetmckCompletes := by
  intro s hs hts
  have result : (microRes fun s => s.mckcache).IgnoresEnv := ignoresEnv_microRes fun _ _ _ => rfl
  exact Begins.completes_callGetmck
    (u := ((s.setCmd (encode .getmck)).setMckcache (memoOrDerived s)).setResult (memoOrDerived s))
    ⟨hs, hts, rfl, rfl⟩ result (by simpa using ignoresEnv_done) (fun _ => rfl) hs

/-- Settles O30. -/
theorem getcpuCompletes : Obligations.GetcpuCompletes := by
  intro s hs hts
  have result : (microRes fun s => s.temps.t * mdivFactor (mckrMdiv s.mckr)).IgnoresEnv :=
    ignoresEnv_microRes fun _ _ _ => rfl
  exact Begins.completes_callGetmck
    (u := ((s.setCmd (encode .getcpu)).setMckcache (memoOrDerived s)).setResult
      (memoOrDerived s * mdivFactor (mckrMdiv s.mckr)))
    ⟨hs, hts, rfl, rfl⟩ ignoresEnv_microKeepMck (by simpa using ⟨result, ignoresEnv_done⟩) (fun _ => rfl) hs

end Sys2Proof.Machine
end

section
/-! PROOFS. Source switching, the dividers and the oscillator switch as whole commands, once the environment answers
(spec/41_source_switching.md R100 to R109). -/

namespace Sys2Proof.Machine

/-! ## What the environment has promised (R27, R193) -/

/-- The environment will take `EnvMckReady` once for each entry of `ns`, in their order, and each time the engine has
first as many turns as the entry says. -/
def Promised : List Nat → List Turn → Prop
  | [], _ => True
  | n :: ns, ts => ∃ middle after, ts = middle ++ .env .mckReady :: after ∧ n ≤ middle.count .go ∧ Promised ns after

section
variable {n : Nat} {ns : List Nat} {t : Turn} {ts : List Turn}

theorem Promised.mem (h : Promised (n :: ns) ts) : .env .mckReady ∈ ts := by
  obtain ⟨middle, after, rfl, _⟩ := h
  simp

theorem Promised.prepend (h : Promised ns ts) (before : List Turn) : Promised ns (before ++ ts) := by
  cases ns with
  | nil => trivial
  | cons n ns =>
    obtain ⟨middle, after, rfl, hn, hns⟩ := h
    refine ⟨before ++ middle, after, by simp, ?_, hns⟩
    rw [List.count_append]
    omega

/-- An answer that will come after more turns of the engine comes after fewer. -/
theorem Promised.fewer (h : Promised ((n + 1) :: ns) ts) : Promised (n :: ns) ts := by
  obtain ⟨middle, after, hts, hn, hns⟩ := h
  exact ⟨middle, after, hts, by omega, hns⟩

/-- The later answers come whatever becomes of the first. -/
theorem Promised.later (h : Promised (n :: ns) ts) : Promised ns ts := by
  obtain ⟨middle, after, rfl, _, hns⟩ := h
  rw [List.append_cons]
  exact hns.prepend _

/-- A turn that passes takes at most one turn from the engine. -/
theorem Promised.tail (h : Promised ((n + 1) :: ns) (t :: ts)) : Promised (n :: ns) ts := by
  obtain ⟨middle, after, hts, hn, hns⟩ := h
  cases middle with
  | nil => simp at hn
  | cons x middle =>
    obtain ⟨rfl, rfl⟩ := List.cons.inj hts
    rw [List.count_cons] at hn
    refine ⟨middle, after, rfl, ?_, hns⟩
    split at hn <;> omega

/-- A turn of the environment takes none from the engine. -/
theorem Promised.tail_env {e : EnvStep} (h : Promised ((n + 1) :: ns) (.env e :: ts)) :
    Promised ((n + 1) :: ns) ts := by
  obtain ⟨middle, after, hts, hn, hns⟩ := h
  cases middle with
  | nil => simp at hn
  | cons x middle =>
    obtain ⟨rfl, rfl⟩ := List.cons.inj hts
    exact ⟨middle, after, rfl, by simpa using hn, hns⟩

/-- The turn at the head is the first answer, or the answer is still to come. -/
theorem Promised.head_cases (h : Promised (0 :: ns) (t :: ts)) :
    t = .env .mckReady ∧ Promised ns ts ∨ Promised (0 :: ns) ts := by
  obtain ⟨middle, after, hts, _, hns⟩ := h
  cases middle with
  | nil =>
    obtain ⟨rfl, rfl⟩ := List.cons.inj hts
    exact .inl ⟨rfl, hns⟩
  | cons x middle =>
    obtain ⟨rfl, rfl⟩ := List.cons.inj hts
    exact .inr ⟨middle, after, rfl, Nat.zero_le _, hns⟩

theorem not_promised_nil : ¬ Promised (n :: ns) [] := fun h => by simpa using h.mem

end

/-- The answer to a command's first micro-operation, which takes one turn. -/
theorem Answers.promised {ts : List Turn} (h : Answers .mckReady ts) : Promised [1] ts := by
  obtain ⟨_, before, after, rfl, _, hmem⟩ := h
  obtain ⟨waiting, rest, rfl⟩ := List.append_of_mem hmem
  exact ⟨before ++ .go :: waiting, rest, by simp, List.count_pos_iff.2 (by simp), trivial⟩

/-- The answers to both writes of the oscillator switch. -/
theorem AnswersTwice.promised {between : Nat} {ts : List Turn} (h : AnswersTwice between ts) :
    Promised [1, between] ts := by
  obtain ⟨_, before, waiting, middle, after, rfl, _, hn⟩ := h
  exact ⟨before ++ .go :: waiting, _, by simp, List.count_pos_iff.2 (by simp), middle, after, rfl, hn, trivial⟩

/-! ## Promises and MCKRDY over the turns before a micro-operation -/

/-- No step of the environment lowers `MCKRDY` (R27). -/
theorem mckrdy_envStep (e : EnvStep) {s : State} (h : s.mckrdy = true) : (envStep e s).mckrdy = true := by
  have hbit : bitSet s.sr mckrdyBit = true := h
  show bitSet (envStep e s).sr mckrdyBit = true
  rcases envStep_sr e s with hsr | ⟨i, _, hsr⟩ | ⟨n, _, hsr⟩ <;> rw [hsr]
  · exact hbit
  · rw [bitSet_raiseBit _ mckrdyBit_lt, hbit, Bool.or_true]
  · rw [lowerBit_other _ mckrdyBit_lt (mckrdyBit_ne_pckrdyBit n), hbit]

theorem mckrdy_envStep_mckReady (s : State) : (envStep .mckReady s).mckrdy = true := by
  cases h : s.mckrdy with
  | true => exact mckrdy_envStep _ h
  | false =>
    rw [envStep_mckReady h]
    exact raiseBit_self s.sr mckrdyBit_lt

/-- A micro-operation that is enabled, and stays so, takes one turn from the engine. -/
theorem await_promised {c : State → Bool} (keep : ∀ e u, c u = true → c (envStep e u) = true) {n : Nat}
    {ns : List Nat} {ts : List Turn} {s : State} (hc : c s = true) (h : Promised ((n + 1) :: ns) ts) :
    Promised (n :: ns) (await c ts s).2.turns := by
  induction ts generalizing s with
  | nil => exact absurd h not_promised_nil
  | cons t ts ih =>
    cases t with
    | go =>
      rw [await_go, if_pos hc]
      exact h.tail
    | env e => exact ih (keep e s hc) h.tail_env
    | reset => exact h.tail
    | hold => exact h.tail

/-- A wait for `MCKRDY` ends at the first answer at the latest, and takes at most one of the turns that the engine has
before the second. -/
theorem await_mckrdy_promised {n : Nat} {ns : List Nat} {ts : List Turn} {s : State}
    (h : Promised (0 :: (n + 1) :: ns) ts) : Promised (n :: ns) (await State.mckrdy ts s).2.turns := by
  induction ts generalizing s with
  | nil => exact absurd h not_promised_nil
  | cons t ts ih =>
    have hstop : Promised (n :: ns) ts := h.later.tail
    cases t with
    | go =>
      rw [await_go]
      split
      · exact hstop
      · rcases h.head_cases with ⟨ht, _⟩ | h
        · exact absurd ht (by simp)
        · exact ih h
    | env e =>
      rw [await_env]
      rcases h.head_cases with ⟨ht, hnext⟩ | h
      · obtain rfl : e = .mckReady := by simpa using ht
        exact await_promised (c := State.mckrdy) (fun e _ => mckrdy_envStep e) (mckrdy_envStep_mckReady s) hnext
      · exact ih h
    | reset => exact hstop
    | hold => exact hstop

/-! ## Micro-operations that leave SR alone -/

/-- What `n` always enabled micro-operations that leave `SR` alone make of `SR` and of unbroken turns, the environment's
steps among those turns being taken. -/
structure Advance (n : Nat) (sr : Word) (ts : List Turn) (sr' : Word) (ts' : List Turn) : Prop where
  unbroken : Unbroken ts'
  silent : Silent ts → Silent ts' ∧ sr' = sr
  ready : mckrdyOf sr = true → mckrdyOf sr' = true
  promised : ∀ m ns, Promised ((m + n) :: ns) ts → Promised (m :: ns) ts'

theorem Advance.trans {n m : Nat} {sr sr' sr'' : Word} {ts ts' ts'' : List Turn} (h : Advance n sr ts sr' ts')
    (h' : Advance m sr' ts' sr'' ts'') : Advance (m + n) sr ts sr'' ts'' where
  unbroken := h'.unbroken
  silent hq := by
    obtain ⟨hq', hsr⟩ := h.silent hq
    obtain ⟨hq'', hsr'⟩ := h'.silent hq'
    exact ⟨hq'', hsr'.trans hsr⟩
  ready hr := h'.ready (h.ready hr)
  promised j ns hp := h'.promised j ns (h.promised (j + m) ns (by rwa [Nat.add_assoc]))

/-- The turns before one such micro-operation. -/
theorem await_advance (s : State) (h : Unbroken s.turns) :
    ∃ sr ts, await (fun _ => true) s.turns s = (true, (s.setSr sr).setTurns ts) ∧ Advance 1 s.sr s.turns sr ts := by
  obtain ⟨sr, ts, hawait, hu, hsub, hsr⟩ := await_unbroken s.turns s h
  refine ⟨sr, ts, hawait, hu, fun hq => ⟨fun e m => hq e (hsub _ m), hsr hq⟩, fun hr => ?_, fun m ns hp => ?_⟩
  · have hkept := await_keeps (fun u => u.mckrdy = true) (fun _ => true) s.turns s
      (fun e _ _ => mckrdy_envStep e) (fun hm => absurd hm h.1) (fun _ _ hu => hu) hr
    rw [hawait] at hkept
    exact hkept
  · have hkept := await_promised (c := fun _ => true) (s := s) (fun _ _ hc => hc) rfl hp
    rw [hawait] at hkept
    exact hkept

/-- The engine's way over one such micro-operation. -/
theorem run_act_advance {f : State → State} (hf : (Micro.act f).IgnoresEnv) (ms : List Micro) (k : Nat) (u : State)
    (sr : Word) {ts : List Turn} (h : Unbroken ts) :
    ∃ sr' ts', run (.act f :: ms) 0 k ((u.setSr sr).setTurns ts) =
        run ms 0 (k + 1) ((((f u).setIndex (k + 1)).setSr sr').setTurns ts') ∧ Advance 1 sr ts sr' ts' := by
  obtain ⟨sr', ts', hawait, hadv⟩ := await_advance ((u.setSr sr).setTurns ts) h
  have hact : f ((u.setSr sr').setTurns ts') = ((f u).setSr sr').setTurns ts' := hf u sr' ts'
  refine ⟨sr', ts', ?_, hadv⟩
  rw [run_act, hawait, ← setIndex_setSr_setTurns, ← hact]
  rfl

/-- The engine's way to the end of a command. -/
theorem run_done_advance (k : Nat) (u : State) (sr : Word) {ts : List Turn} (h : Unbroken ts) :
    ∃ sr' ts', run [.done] 0 k ((u.setSr sr).setTurns ts) = ((u.setSeq .idle).setSr sr').setTurns ts' ∧
      Advance 1 sr ts sr' ts' := by
  obtain ⟨sr', ts', hawait, hadv⟩ := await_advance ((u.setSr sr).setTurns ts) h
  refine ⟨sr', ts', ?_, hadv⟩
  rw [run_done, hawait]
  rfl

theorem setSeq_setIndex (s : State) (k : Nat) (q : Seq) : (s.setIndex k).setSeq q = s.setSeq q := by
  unfold State.setIndex
  split <;> rfl

/-- The last two entries of the family: forget the memoised word and end. -/
theorem run_inval_done_advance (k : Nat) (u : State) (sr : Word) {ts : List Turn} (h : Unbroken ts) :
    ∃ sr' ts', run [microInval, .done] 0 k ((u.setSr sr).setTurns ts) =
        (((u.setMckcache 0).setSeq .idle).setSr sr').setTurns ts' ∧ Advance 2 sr ts sr' ts' := by
  obtain ⟨sr₁, ts₁, hinval, hadv₁⟩ := run_act_advance ignoresEnv_microInval [.done] k u sr h
  obtain ⟨sr₂, ts₂, hdone, hadv₂⟩ := run_done_advance (k + 1) ((u.setMckcache 0).setIndex (k + 1)) sr₁ hadv₁.unbroken
  refine ⟨sr₂, ts₂, ?_, hadv₁.trans hadv₂⟩
  rw [microInval, hinval, hdone, setSeq_setIndex]

/-! ## A write of MCKR, its wait and the invalidation (R25, R100 to R106) -/

/-- The effect is a write of `MCKR`, which lowers `MCKRDY`, and does `h` to the rest of the state. -/
def WritesMckr (f h : State → State) : Prop :=
  ∀ (u : State) sr ts, f ((u.setSr sr).setTurns ts) = ((h u).setSr (lowerBit sr mckrdyBit)).setTurns ts

/-- The turns before a wait for `MCKRDY` that the environment has promised to answer. -/
theorem await_mckrdy_answered (s : State) {ns : List Nat} (h : Unbroken s.turns) (hp : Promised (0 :: ns) s.turns) :
    ∃ sr ts, await State.mckrdy s.turns s = (true, (s.setSr sr).setTurns ts) ∧ Unbroken ts ∧ mckrdyOf sr = true ∧
      ∀ n ns', ns = (n + 1) :: ns' → Promised (n :: ns') ts := by
  obtain ⟨sr, ts, hawait, hu, _, hready, _⟩ := await_answered mckrdyOf .mckReady s.pckenr
    (fun e _ _ => mckrdy_envStep e) (fun u _ => mckrdy_envStep_mckReady u) s.turns s rfl h (.inr hp.mem)
  refine ⟨sr, ts, hawait, hu, hready, ?_⟩
  rintro n ns' rfl
  have hkept := await_mckrdy_promised (s := s) hp
  have hturns : (await State.mckrdy s.turns s).2.turns = ts := congrArg (fun r => r.2.turns) hawait
  rwa [hturns] at hkept

/-- The engine's way over the pattern of the family. The wait and the invalidation take two of the turns before the next
answer. -/
theorem run_write_wait_inval {f h : State → State} (hf : WritesMckr f h) (rest : List Micro) (k : Nat) {u : State}
    {w : Word} {j : Nat} {t : Temps} (hseq : (h u).seq = .run w j t) (sr : Word) {ts : List Turn} {ns : List Nat}
    (hu : Unbroken ts) (hp : Promised (1 :: ns) ts) :
    ∃ sr' ts', run (.act f :: .wait State.mckrdy :: microInval :: rest) 0 k ((u.setSr sr).setTurns ts) =
        run rest 0 (k + 3) (((((h u).setMckcache 0).setSeq (.run w (k + 3) t)).setSr sr').setTurns ts') ∧
      Unbroken ts' ∧ mckrdyOf sr' = true ∧ ∀ n ns', ns = (n + 2) :: ns' → Promised (n :: ns') ts' := by
  obtain ⟨sr₁, ts₁, hwrite, hadv₁⟩ := await_advance ((u.setSr sr).setTurns ts) hu
  obtain ⟨sr₂, ts₂, hwait, hu₂, hready, hp₂⟩ := await_mckrdy_answered
    ((((h u).setIndex (k + 1)).setSr (lowerBit sr₁ mckrdyBit)).setTurns ts₁) hadv₁.unbroken
    (hadv₁.promised 0 ns hp)
  obtain ⟨sr₃, ts₃, hinval, hadv₃⟩ := run_act_advance ignoresEnv_microInval rest (k + 2)
    (((h u).setIndex (k + 1)).setIndex (k + 2)) sr₂ hu₂
  refine ⟨sr₃, ts₃, ?_, hadv₃.unbroken, hadv₃.ready hready, fun n ns' hns =>
    hadv₃.promised n ns' (hp₂ (n + 1) ns' hns)⟩
  have hlowered : f ((u.setSr sr₁).setTurns ts₁) = ((h u).setSr (lowerBit sr₁ mckrdyBit)).setTurns ts₁ := hf u sr₁ ts₁
  have hindex : (((((h u).setIndex (k + 1)).setIndex (k + 2)).setMckcache 0).setIndex (k + 3)) =
      ((h u).setMckcache 0).setSeq (.run w (k + 3) t) := by
    rw [State.setIndex_run hseq]
    rfl
  calc run (.act f :: .wait State.mckrdy :: microInval :: rest) 0 k ((u.setSr sr).setTurns ts)
      = run (.wait State.mckrdy :: microInval :: rest) 0 (k + 1)
          ((f ((u.setSr sr₁).setTurns ts₁)).setIndex (k + 1)) := by rw [run_act, hwrite]; rfl
    _ = run (microInval :: rest) 0 (k + 2)
          ((((h u).setIndex (k + 1)).setSr sr₂).setTurns ts₂ |>.setIndex (k + 2)) := by
        rw [hlowered, setIndex_setSr_setTurns, run_wait, hwait]; rfl
    _ = _ := by rw [setIndex_setSr_setTurns, microInval, hinval, hindex]

theorem writesMckr_microWr {v : State → Word} (hv : OfConfiguration v) :
    WritesMckr (fun s => writeReg .mckr (v s) s) fun s => s.setMckr (v s) := fun u sr ts =>
  congrArg (fun x => ((u.setMckr x).setSr (lowerBit sr mckrdyBit)).setTurns ts) (hv u u.cmd sr u.seq ts)

/-- The engine's way over an `if` whose condition holds. -/
theorem run_ifThen_taken {c : State → Bool} {s : State} (h : c s = true) (n : Nat) (ms : List Micro) (k : Nat) :
    run (.ifThen c n :: ms) 0 k s = run ms 0 (k + 1) s := by
  rw [run_ifThen, if_pos h]

/-- To pass entries over is to drop them. -/
theorem run_eq_run_drop (ms : List Micro) (n k : Nat) (s : State) : run ms n k s = run (ms.drop n) 0 (k + n) s := by
  induction n generalizing ms k with
  | zero => rfl
  | succ n ih =>
    cases ms with
    | nil => rfl
    | cons m ms => rw [run_skip, ih, List.drop_succ_cons, Nat.add_right_comm, Nat.add_assoc]

/-- The engine's way over an `if` whose condition does not hold. -/
theorem run_ifThen_passed {c : State → Bool} {s : State} (h : c s = false) (n : Nat) (ms : List Micro) (k : Nat) :
    run (.ifThen c n :: ms) 0 k s = run (ms.drop n) 0 (k + 1 + n) s := by
  rw [run_ifThen, if_neg (by simp [h]), run_eq_run_drop]

/-- A command that passes its check runs its sequence from the first entry (R64). -/
theorem Begins.runs {i : Instr} {sq : List Micro} {s : State} (h : Begins i sq s) :
    exec i s = .next (run sq 0 0 ((s.setCmd (encode i)).setSeq (.run (encode i) 0 {}))) := by
  rw [h.meaning, runCommand_idle h.idle h.passes]

section
variable {i : Instr} {c : State → Bool} {n : Nat} {ms : List Micro} {s : State}

/-- A command that begins with an `if` whose condition holds. -/
theorem Begins.runs_taken (h : Begins i (.ifThen c n :: ms) s)
    (hc : c ((s.setCmd (encode i)).setSeq (.run (encode i) 0 {})) = true) :
    exec i s = .next (run ms 0 1 ((s.setCmd (encode i)).setSeq (.run (encode i) 0 {}))) := by
  rw [h.runs, run_ifThen_taken hc]

/-- A command that begins with an `if` whose condition does not hold. -/
theorem Begins.runs_passed (h : Begins i (.ifThen c n :: ms) s)
    (hc : c ((s.setCmd (encode i)).setSeq (.run (encode i) 0 {})) = false) :
    exec i s = .next (run (ms.drop n) 0 (1 + n) ((s.setCmd (encode i)).setSeq (.run (encode i) 0 {}))) := by
  rw [h.runs, run_ifThen_passed hc, Nat.zero_add]

end

/-- The pattern of the family to the end of a command, once the environment answers. -/
theorem run_changeMckr_done {v : State → Word} (hv : OfConfiguration v) (k : Nat) (w : Word) {s : State}
    (hs : s.seq = .idle) (ha : Answers .mckReady s.turns) :
    ∃ sr ts, run (changeMckr v ++ [.done]) 0 k ((s.setCmd w).setSeq (.run w 0 {})) =
        ((((s.setCmd w).setMckr (v s)).setMckcache 0).setSr sr).setTurns ts ∧ mckrdyOf sr = true := by
  obtain ⟨sr₁, ts₁, hpattern, hu₁, hready, _⟩ := run_write_wait_inval (writesMckr_microWr hv) [.done] k
    (u := (s.setCmd w).setSeq (.run w 0 {})) rfl s.sr ha.1 ha.promised
  obtain ⟨sr₂, ts₂, hdone, hadv⟩ := run_done_advance (k + 3)
    ((((s.setCmd w).setMckr (v s)).setMckcache 0).setSeq (.run w (k + 3) {})) sr₁ hu₁
  have hval : v ((s.setCmd w).setSeq (.run w 0 {})) = v s := hv s w s.sr (.run w 0 {}) s.turns
  refine ⟨sr₂, ts₂, ?_, hadv.ready hready⟩
  rw [hval] at hpattern
  rw [← hs] at hdone
  exact hpattern.trans hdone

/-- R100 to R104: a command that is this pattern. -/
theorem Begins.completes_changeMckr {i : Instr} {v : State → Word} {s : State}
    (h : Begins i (changeMckr v ++ [.done]) s) (hv : OfConfiguration v) (ha : Answers .mckReady s.turns) :
    ∃ sr ts, exec i s = .next (((((s.setCmd (encode i)).setMckr (v s)).setMckcache 0).setSr sr).setTurns ts) ∧
      bitSet sr 3 = true := by
  obtain ⟨sr, ts, hrun, hready⟩ := run_changeMckr_done hv 0 (encode i) h.idle ha
  exact ⟨sr, ts, by rw [h.runs, hrun], hready⟩

/-! ## The switches and the dividers (R100 to R105) -/

/-- A value made of `MCKR` is one of the configuration. -/
theorem ofConfiguration_mckr (g : Word → Word) : OfConfiguration fun s => g s.mckr := fun _ _ _ _ _ => rfl

/-- Settles O33: each switch is the pattern of the family. -/
theorem switchCommandsComplete : Obligations.SwitchCommandsComplete := by
  intro s i c hs ha hi
  have hv : OfConfiguration fun s => mckrWithCss s.mckr c := ofConfiguration_mckr (mckrWithCss · c)
  rcases hi with ⟨rfl, rfl⟩ | ⟨rfl, rfl⟩ | ⟨rfl, rfl⟩
  all_goals exact Begins.completes_changeMckr ⟨hs, ha.1, rfl, rfl⟩ hv ha

/-- Settles O34: both commands are the pattern of the family, and the operand passes its check. -/
theorem dividerCommandsComplete : Obligations.DividerCommandsComplete := by
  rintro s i a m hs ha (⟨rfl, hop, rfl⟩ | ⟨rfl, hop, rfl⟩)
  · exact Begins.completes_changeMckr (i := .setpres a) ⟨hs, ha.1, if_pos hop, rfl⟩
      (ofConfiguration_mckr (mckrWithPres · (a.setWidth 3))) ha
  · exact Begins.completes_changeMckr (i := .setmdiv a) ⟨hs, ha.1, if_pos hop, rfl⟩
      (ofConfiguration_mckr (mckrWithMdiv · (a.setWidth 2))) ha

/-- Settles O35: the `if` is taken, or nothing but `done` is left. -/
theorem setplladiv2Completes : Obligations.Setplladiv2Completes := by
  intro s a hs hop
  refine ⟨fun hne ha => ?_, fun heq hu => ?_⟩
  · have hbegin : Begins (.setplladiv2 a) (seqSetplladiv2 a) s := ⟨hs, ha.1, if_pos hop, rfl⟩
    obtain ⟨sr, ts, hrun, hready⟩ := run_changeMckr_done
      (ofConfiguration_mckr fun m => mckrWithPlladiv2 m (a.setWidth 1)) 1 (encode (.setplladiv2 a)) hs ha
    exact ⟨sr, ts, (hbegin.runs_taken (bne_iff_ne.2 hne)).trans (congrArg _ hrun), hready⟩
  · have hbegin : Begins (.setplladiv2 a) (seqSetplladiv2 a) s := ⟨hs, hu, if_pos hop, rfl⟩
    obtain ⟨sr, ts, hrun, hadv⟩ := run_done_advance 4
      ((s.setCmd (encode (.setplladiv2 a))).setSeq (.run (encode (.setplladiv2 a)) 0 {})) s.sr hu
    rw [← hs] at hrun
    exact ⟨sr, ts, (hbegin.runs_passed (bne_eq_false_iff_eq.2 heq)).trans (congrArg _ hrun),
      fun hq => (hadv.silent hq).2⟩

/-! ## The parts of the oscillator switch (R106, R107, R109) -/

/-- The end of the oscillator switch: the master clock goes back if it was moved. -/
def moveBack : List Micro :=
  .ifThen (fun s => s.temps.wasSlow) 3 :: (changeMckr (fun s => mckrWithCss s.mckr 0) ++ [microInval, .done])

/-- The oscillator switch from its select bit on. -/
def selectOscillator (p : Params) (sel : BitVec 1) : List Micro :=
  (microWr .oscr fun s => oscrWithSlcksel s.oscr sel) :: (settle p ++ moveBack)

theorem switchSlowOscillator_eq (p : Params) (sel : BitVec 1) :
    switchSlowOscillator p sel = .ifThen (fun s => mckrCss s.mckr == 0) 3 :: microLeaveSlow :: .wait State.mckrdy ::
      microInval :: selectOscillator p sel := by
  simp [switchSlowOscillator, selectOscillator, moveBack, switchTo]

theorem Advance.refl (sr : Word) {ts : List Turn} (h : Unbroken ts) : Advance 0 sr ts sr ts :=
  ⟨h, fun hq => ⟨hq, rfl⟩, id, fun _ _ => id⟩

theorem ignoresEnv_microIdle : microIdle.IgnoresEnv := fun s sr ts =>
  setTemps_setSr_setTurns s sr ts { s.temps with n := s.temps.n + 1 }

/-- The idle steps change the index and the settle counter, by one turn each. -/
theorem run_idle_advance (n : Nat) (rest : List Micro) (k : Nat) (u : State) (w : Word) (j : Nat) (t : Temps)
    (sr : Word) {ts : List Turn} (h : Unbroken ts) :
    ∃ j' t' sr' ts', run (List.replicate n microIdle ++ rest) 0 k (((u.setSeq (.run w j t)).setSr sr).setTurns ts) =
        run rest 0 (k + n) (((u.setSeq (.run w j' t')).setSr sr').setTurns ts') ∧
      t'.wasSlow = t.wasSlow ∧ Advance n sr ts sr' ts' := by
  induction n generalizing k j t sr ts with
  | zero => exact ⟨j, t, sr, ts, rfl, rfl, .refl sr h⟩
  | succ n ih =>
    obtain ⟨sr₁, ts₁, hidle, hadv₁⟩ := run_act_advance ignoresEnv_microIdle (List.replicate n microIdle ++ rest) k
      (u.setSeq (.run w j t)) sr h
    obtain ⟨j', t', sr', ts', hrest, hslow, hadv⟩ := ih (k + 1) (k + 1) { t with n := t.n + 1 } sr₁ hadv₁.unbroken
    refine ⟨j', t', sr', ts', ?_, hslow, hadv₁.trans hadv⟩
    rw [← Nat.add_assoc, Nat.add_right_comm]
    exact hidle.trans hrest

/-- The select bit and the idle steps, as far as the question whether the master clock was moved. -/
theorem run_selectOscillator_advance (p : Params) (sel : BitVec 1) (k : Nat) (u : State) (w : Word) (j : Nat)
    (t : Temps) (sr : Word) {ts : List Turn} (h : Unbroken ts) :
    ∃ j' t' sr' ts', run (selectOscillator p sel) 0 k (((u.setSeq (.run w j t)).setSr sr).setTurns ts) =
        run moveBack 0 (k + 1 + p.settleIter)
          ((((u.setOscr (oscrWithSlcksel u.oscr sel)).setSeq (.run w j' t')).setSr sr').setTurns ts') ∧
      t'.wasSlow = t.wasSlow ∧ Advance (p.settleIter + 1) sr ts sr' ts' := by
  have select : (microWr .oscr fun s => oscrWithSlcksel s.oscr sel).IgnoresEnv := fun _ _ _ => rfl
  obtain ⟨sr₁, ts₁, hselect, hadv₁⟩ := run_act_advance select (settle p ++ moveBack) k (u.setSeq (.run w j t)) sr h
  obtain ⟨j', t', sr', ts', hsettle, hslow, hadv⟩ := run_idle_advance p.settleIter moveBack (k + 1)
    (u.setOscr (oscrWithSlcksel u.oscr sel)) w (k + 1) t sr₁ hadv₁.unbroken
  exact ⟨j', t', sr', ts', hselect.trans hsettle, hslow, hadv₁.trans hadv⟩

/-- Where the master clock was not moved, the switch forgets the memoised word and ends. -/
theorem run_moveBack_skipped (k : Nat) (u : State) (w : Word) (j : Nat) {t : Temps} (ht : t.wasSlow = false) (sr : Word)
    {ts : List Turn} (h : Unbroken ts) :
    ∃ sr' ts', run moveBack 0 k (((u.setSeq (.run w j t)).setSr sr).setTurns ts) =
        (((u.setMckcache 0).setSeq .idle).setSr sr').setTurns ts' ∧ Advance 2 sr ts sr' ts' := by
  obtain ⟨sr', ts', hend, hadv⟩ := run_inval_done_advance (k + 4) (u.setSeq (.run w j t)) sr h
  exact ⟨sr', ts', (run_ifThen_passed ht 3 _ k).trans hend, hadv⟩

/-- Where it was moved, it goes back to the slow clock once the environment answers, and `MCKRDY` ends 1. -/
theorem run_moveBack_taken (k : Nat) (u : State) (w : Word) (j : Nat) {t : Temps} (ht : t.wasSlow = true) (sr : Word)
    {ts : List Turn} (h : Unbroken ts) (hp : Promised [1] ts) :
    ∃ sr' ts', run moveBack 0 k (((u.setSeq (.run w j t)).setSr sr).setTurns ts) =
        ((((u.setMckr (mckrWithCss u.mckr 0)).setMckcache 0).setSeq .idle).setSr sr').setTurns ts' ∧
      mckrdyOf sr' = true := by
  obtain ⟨sr₁, ts₁, hback, hu₁, hready, _⟩ := run_write_wait_inval
    (writesMckr_microWr (ofConfiguration_mckr fun m => mckrWithCss m 0)) [microInval, .done] (k + 1)
    (u := u.setSeq (.run w j t)) rfl sr h hp
  obtain ⟨sr', ts', hend, hadv⟩ := run_inval_done_advance (k + 4)
    (((u.setMckr (mckrWithCss u.mckr 0)).setMckcache 0).setSeq (.run w (k + 4) t)) sr₁ hu₁
  exact ⟨sr', ts', (run_ifThen_taken ht 3 _ k).trans (hback.trans hend), hadv.ready hready⟩

/-! ## The oscillator switch (R106, R107, R109) -/

/-- R106 (b), R107: from another source than the slow clock. -/
theorem Begins.completes_switch_from_other {i : Instr} {sel : BitVec 1} {s : State}
    (h : Begins i (switchSlowOscillator s.params sel) s) (hcss : bitField s.mckr 0 2 ≠ 0) :
    ∃ sr ts, exec i s =
        .next (((((s.setCmd (encode i)).setOscr (insertField s.oscr 0 sel)).setMckcache 0).setSr sr).setTurns ts) ∧
      (Silent s.turns → sr = s.sr) := by
  obtain ⟨j, t, sr₁, ts₁, hselect, hslow, hadv₁⟩ := run_selectOscillator_advance s.params sel 4
    (s.setCmd (encode i)) (encode i) 0 {} s.sr h.unbroken
  obtain ⟨sr, ts, hend, hadv⟩ := run_moveBack_skipped (4 + 1 + s.params.settleIter)
    ((s.setCmd (encode i)).setOscr (insertField s.oscr 0 sel)) (encode i) j hslow sr₁ hadv₁.unbroken
  rw [← h.idle] at hend
  rw [switchSlowOscillator_eq] at h
  exact ⟨sr, ts, (h.runs_passed (beq_eq_false_iff_ne.2 hcss)).trans (congrArg _ (hselect.trans hend)),
    fun hq => ((hadv₁.trans hadv).silent hq).2⟩

/-- Settles O37: the master clock is not moved, and so not moved back. -/
theorem oscillatorSwitchFromOtherSourcesCompletes : Obligations.OscillatorSwitchFromOtherSourcesCompletes := by
  rintro s i sel hs hcss hu (⟨rfl, rfl⟩ | ⟨rfl, rfl⟩)
  all_goals exact Begins.completes_switch_from_other ⟨hs, hu, rfl, rfl⟩ hcss

/-- The first write of the switch, with the state it leaves but for `SR`. -/
theorem writesMckr_microLeaveSlow :
    WritesMckr (fun s => writeReg .mckr (mckrWithCss s.mckr 1) (s.setTemps { s.temps with wasSlow := true }))
      fun s => (s.setTemps { s.temps with wasSlow := true }).setMckr (mckrWithCss s.mckr 1) := fun u sr ts => by
  have htemps := setTemps_setSr_setTurns u sr ts { u.temps with wasSlow := true }
  exact congrArg (writeReg .mckr (mckrWithCss u.mckr 1)) htemps

/-- A field written twice and at last with what it was. -/
theorem insertField_back (m : Word) {lo n : Nat} (v : BitVec n) :
    insertField (insertField m lo v) lo (bitField m lo n) = m := by
  apply BitVec.eq_of_getLsbD_eq
  intro i hi
  rw [insertField_getLsbD _ _ _ _ hi, insertField_getLsbD _ _ _ _ hi]
  split
  next hin => rw [bitField_getLsbD _ _ _ _ (by omega), Nat.add_sub_cancel' hin.1]
  next => rfl

/-- R106 (a), R107: from the slow clock. -/
theorem Begins.completes_switch_from_slow {i : Instr} {sel : BitVec 1} {s : State}
    (h : Begins i (switchSlowOscillator s.params sel) s) (hcss : bitField s.mckr 0 2 = 0)
    (ha : AnswersTwice (s.params.settleIter + 4) s.turns) :
    ∃ sr ts, exec i s =
        .next (((((s.setCmd (encode i)).setOscr (insertField s.oscr 0 sel)).setMckcache 0).setSr sr).setTurns ts) ∧
      bitSet sr 3 = true := by
  obtain ⟨sr₁, ts₁, hleave, hu₁, _, hp₁⟩ := run_write_wait_inval writesMckr_microLeaveSlow
    (selectOscillator s.params sel) 1 (u := (s.setCmd (encode i)).setSeq (.run (encode i) 0 {})) rfl s.sr h.unbroken
    ha.promised
  obtain ⟨j, t, sr₂, ts₂, hselect, hslow, hadv₂⟩ := run_selectOscillator_advance s.params sel 4
    (((s.setCmd (encode i)).setMckr (mckrWithCss s.mckr 1)).setMckcache 0) (encode i) 4 { wasSlow := true } sr₁ hu₁
  have hp₂ : Promised [1] ts₂ := hadv₂.promised 1 [] (hp₁ _ [] (by rw [Nat.add_comm 1]))
  obtain ⟨sr, ts, hend, hready⟩ := run_moveBack_taken (4 + 1 + s.params.settleIter)
    ((((s.setCmd (encode i)).setMckr (mckrWithCss s.mckr 1)).setMckcache 0).setOscr (insertField s.oscr 0 sel))
    (encode i) j hslow sr₂ hadv₂.unbroken hp₂
  have hmckr : mckrWithCss (mckrWithCss s.mckr 1) 0 = s.mckr := by
    rw [← hcss]
    exact insertField_back s.mckr 1
  have hidle := h.idle
  rw [switchSlowOscillator_eq] at h
  refine ⟨sr, ts, (h.runs_taken (beq_iff_eq.2 hcss)).trans (congrArg _ ((hleave.trans hselect).trans (hend.trans ?_))),
    hready⟩
  rw [← hidle]
  show ((((((s.setCmd (encode i)).setMckr (mckrWithCss (mckrWithCss s.mckr 1) 0)).setOscr _).setMckcache 0).setSr
    sr).setTurns ts) = _
  rw [hmckr]
  rfl

/-- Settles O36: the master clock is moved to the main clock, and back after the select bit and the idle steps. -/
theorem oscillatorSwitchFromTheSlowClockCompletes : Obligations.OscillatorSwitchFromTheSlowClockCompletes := by
  rintro s i sel hs hcss ha (⟨rfl, rfl⟩ | ⟨rfl, rfl⟩)
  all_goals exact Begins.completes_switch_from_slow ⟨hs, ha.1, rfl, rfl⟩ hcss ha

end Sys2Proof.Machine
end

section
/-! PROOFS. The PLL commands as whole commands: `SETPLLA` once the environment locks, `DISPLLA` without a wait
(spec/42_pll_configuration.md R120 to R122). -/

namespace Sys2Proof.Machine

/-! ## LOCKA over the turns before a micro-operation (R27) -/

/-- No step of the environment lowers `LOCKA`. -/
theorem locka_envStep (e : EnvStep) {s : State} (h : s.locka = true) : (envStep e s).locka = true := by
  have hbit : bitSet s.sr lockaBit = true := h
  show bitSet (envStep e s).sr lockaBit = true
  rcases envStep_sr e s with hsr | ⟨i, _, hsr⟩ | ⟨n, _, hsr⟩ <;> rw [hsr]
  · exact hbit
  · rw [bitSet_raiseBit _ lockaBit_lt, hbit, Bool.or_true]
  · rw [lowerBit_other _ lockaBit_lt (lockaBit_ne_pckrdyBit n), hbit]

theorem locka_envStep_lock (s : State) : (envStep .lock s).locka = true := by
  cases h : s.locka with
  | true => exact locka_envStep _ h
  | false =>
    rw [envStep_lock h]
    exact raiseBit_self s.sr lockaBit_lt

/-- `LOCKA` as a bit of `SR`. -/
def lockaOf (sr : Word) : Bool := bitSet sr lockaBit

/-- The PLL has locked, or `EnvLock` is still to come. `SETPLLA` writes `CPR` between the write of `PLLAR` and the wait,
so the environment may lock before the wait is reached. -/
def LockComing (sr : Word) (ts : List Turn) : Prop := lockaOf sr = true ∨ .env .lock ∈ ts

/-- A turn other than `EnvLock` leaves the lock locked or to come. -/
theorem LockComing.tail {sr : Word} {t : Turn} {ts : List Turn} (h : LockComing sr (t :: ts)) (ht : t ≠ .env .lock) :
    LockComing sr ts :=
  h.imp_right fun m => (List.mem_cons.1 m).resolve_left ht.symm

/-- The lock is not lost on the way to a micro-operation. -/
theorem await_lockComing (c : State → Bool) {ts : List Turn} {s : State} (hu : Unbroken ts) (h : LockComing s.sr ts) :
    LockComing (await c ts s).2.sr (await c ts s).2.turns := by
  induction ts generalizing s with
  | nil => exact h
  | cons t ts ih =>
    cases t with
    | go =>
      have hnext : LockComing s.sr ts := h.tail (by simp)
      rw [await_go]
      split
      · exact hnext
      · exact ih hu.tail hnext
    | env e =>
      rw [await_env]
      refine ih hu.tail ?_
      by_cases he : e = .lock
      · exact .inl (he ▸ locka_envStep_lock s)
      · exact (h.tail (by simpa using he)).imp_left fun hl => locka_envStep e hl
    | reset => exact absurd (by simp) hu.1
    | hold => exact absurd (by simp) hu.2

/-- The turns before the wait for the lock. -/
theorem await_locka_answered (s : State) (h : Unbroken s.turns) (hl : LockComing s.sr s.turns) :
    ∃ sr ts, await State.locka s.turns s = (true, (s.setSr sr).setTurns ts) ∧ Unbroken ts ∧ lockaOf sr = true := by
  obtain ⟨sr, ts, hawait, hu, _, hlocked, _⟩ := await_answered lockaOf .lock s.pckenr (fun e _ _ => locka_envStep e)
    (fun u _ => locka_envStep_lock u) s.turns s rfl h hl
  exact ⟨sr, ts, hawait, hu, hlocked⟩

/-- The engine's way over a micro-operation that leaves `SR` alone, while the lock is to come. -/
theorem run_act_lockComing {f : State → State} (hf : (Micro.act f).IgnoresEnv) (ms : List Micro) (k : Nat) (u : State)
    {sr : Word} {ts : List Turn} (hu : Unbroken ts) (h : LockComing sr ts) :
    ∃ sr' ts', run (.act f :: ms) 0 k ((u.setSr sr).setTurns ts) =
        run ms 0 (k + 1) ((((f u).setIndex (k + 1)).setSr sr').setTurns ts') ∧ Unbroken ts' ∧ LockComing sr' ts' := by
  obtain ⟨sr', ts', hawait, hu', _⟩ := await_unbroken ts ((u.setSr sr).setTurns ts) hu
  have hlock := await_lockComing (fun _ => true) (s := (u.setSr sr).setTurns ts) hu h
  have hact : f ((u.setSr sr').setTurns ts') = ((f u).setSr sr').setTurns ts' := hf u sr' ts'
  rw [hawait] at hlock
  refine ⟨sr', ts', ?_, hu', hlock⟩
  rw [run_act, State.setTurns_turns, hawait, ← setIndex_setSr_setTurns, ← hact]
  rfl

/-- Once locked, the PLL stays locked through micro-operations that leave `SR` alone. -/
theorem run_keeps_locka {ms : List Micro} (hms : ∀ m ∈ ms, m.IgnoresEnv) (n k : Nat) {s : State}
    (hr : Turn.reset ∉ s.turns) (h : s.locka = true) : (run ms n k s).locka = true := by
  have hkept := run_keeps (fun u => Turn.reset ∉ u.turns ∧ lockaOf u.sr = true) ms
    (turns := fun c u hu => ?_) (acts := fun f hf u j hu => ?_) (index := fun u j hu => ?_)
    (finish := fun _ hu => hu) n k s ⟨hr, h⟩
  · exact hkept.2
  · obtain ⟨hru, hlu⟩ := hu
    exact ⟨fun m => hru ((await_noReset c u.turns u hru).2 _ m), await_keeps (fun v => v.locka = true) c u.turns u
      (fun e _ _ => locka_envStep e) (fun m => absurd m hru) (fun _ _ hv => hv) hlu⟩
  · have hself : f u = ((f u).setSr u.sr).setTurns u.turns := hms _ hf u u.sr u.turns
    rw [State.setIndex_turns, State.setIndex_sr, hself]
    exact hu
  · rw [State.setIndex_turns, State.setIndex_sr]
    exact hu

/-- The end of `SETPLLA`: the wait for the lock, the invalidation and `done`. -/
theorem run_waitLock_inval_done (k : Nat) (u : State) {sr : Word} {ts : List Turn} (hu : Unbroken ts)
    (h : LockComing sr ts) :
    ∃ sr' ts', run [.wait State.locka, microInval, .done] 0 k ((u.setSr sr).setTurns ts) =
        (((u.setMckcache 0).setSeq .idle).setSr sr').setTurns ts' ∧ lockaOf sr' = true := by
  obtain ⟨sr₁, ts₁, hwait, hu₁, hlock⟩ := await_locka_answered ((u.setSr sr).setTurns ts) hu h
  obtain ⟨sr₂, ts₂, hend, _⟩ := run_inval_done_advance (k + 1) (u.setIndex (k + 1)) sr₁ hu₁
  have hrest : ∀ m ∈ [microInval, .done], m.IgnoresEnv := by
    simpa using ⟨ignoresEnv_microInval, ignoresEnv_done⟩
  have hlocked := run_keeps_locka hrest 0 (k + 1) (s := ((u.setIndex (k + 1)).setSr sr₁).setTurns ts₁) hu₁.1 hlock
  rw [hend] at hlocked
  refine ⟨sr₂, ts₂, ?_, hlocked⟩
  have hidle : ((u.setIndex (k + 1)).setMckcache 0).setSeq .idle = (u.setMckcache 0).setSeq .idle :=
    congrArg (State.setMckcache · 0) (setSeq_setIndex u (k + 1) .idle)
  calc run [.wait State.locka, microInval, .done] 0 k ((u.setSr sr).setTurns ts)
      = run [microInval, .done] 0 (k + 1) (((u.setSr sr₁).setTurns ts₁).setIndex (k + 1)) := by
        rw [run_wait, hwait]; rfl
    _ = (((u.setMckcache 0).setSeq .idle).setSr sr₂).setTurns ts₂ := by
        rw [setIndex_setSr_setTurns, hend, hidle]

/-! ## `SETPLLA` (R120) -/

/-- Settles O38: `EnvLock` comes after the write of `PLLAR`, hence before the wait ends. -/
theorem setpllaCompletes : Obligations.SetpllaCompletes := by
  intro s hs ha
  have hbegin : Begins .setplla seqSetplla s := ⟨hs, ha.1, rfl, rfl⟩
  obtain ⟨sr₁, ts₁, hawait, hu₁, hlock₁⟩ :=
    await_answers ha ((s.setCmd (encode .setplla)).setSeq (.run (encode .setplla) 0 {}))
  have hpllar : run seqSetplla 0 0 ((s.setCmd (encode .setplla)).setSeq (.run (encode .setplla) 0 {})) =
      run (seqSetplla.drop 1) 0 1 (((((s.setCmd (encode .setplla)).setPllar s.arg0).setSeq
        (.run (encode .setplla) 1 {})).setSr (lowerBit sr₁ lockaBit)).setTurns ts₁) := by
    rw [seqSetplla, microWr, run_act, State.setSeq_turns, State.setCmd_turns, hawait]
    rfl
  have ignores : (microWr .cpr fun s => s.arg1).IgnoresEnv := fun _ _ _ => rfl
  obtain ⟨sr₂, ts₂, hcpr, hu₂, hlock₂⟩ := run_act_lockComing ignores [.wait State.locka, microInval, .done] 1
    (((s.setCmd (encode .setplla)).setPllar s.arg0).setSeq (.run (encode .setplla) 1 {})) hu₁ (.inr hlock₁)
  obtain ⟨sr, ts, hend, hlocked⟩ := run_waitLock_inval_done 2
    ((((s.setCmd (encode .setplla)).setPllar s.arg0).setCpr s.arg1).setSeq (.run (encode .setplla) 2 {})) hu₂ hlock₂
  refine ⟨sr, ts, ?_, hlocked⟩
  rw [hbegin.runs, hpllar]
  refine congrArg _ ((hcpr.trans hend).trans ?_)
  rw [← hs]
  rfl

/-! ## `DISPLLA` (R121) -/

/-- R121 (a): with the multiplier cleared the derived frequency is the input over the divider, halved where asked. -/
theorem pllDerive_mula_zero_toNat (pllar : Word) (half : BitVec 1) (f : Word) :
    (pllDerive (pllarWithMula pllar 0) half f).toNat =
      if pllarDiva pllar = 0 then 0 else f.toNat / (pllarDiva pllar).toNat / (if half = 1 then 2 else 1) := by
  have hmula : pllarMula (pllarWithMula pllar 0) = 0 := bitField_insertField_self pllar 18 7 0 (by omega)
  have hdiva : pllarDiva (pllarWithMula pllar 0) = pllarDiva pllar :=
    bitField_insertField_other pllar 18 0 8 (0 : BitVec 7) (by omega) (.inl (by omega))
  have hzero : pllarDiva pllar = 0 ↔ (pllarDiva pllar).toNat = 0 := BitVec.toNat_inj.symm
  have hfits : f.toNat * ((0 : BitVec 7).toNat + 1) % 2 ^ 32 = f.toNat := by
    show f.toNat * 1 % 2 ^ 32 = f.toNat
    rw [Nat.mul_one, Nat.mod_eq_of_lt f.isLt]
  rw [pllDerive_toNat, hmula, hdiva, hfits, if_congr hzero.symm rfl rfl]

/-- Settles O39: the write of `PLLAR` lowers `LOCKA`, and nothing waits for it to rise. -/
theorem displlaCompletes : Obligations.DispllaCompletes := by
  intro s hs hu
  have hbegin : Begins .displla seqDisplla s := ⟨hs, hu, rfl, rfl⟩
  obtain ⟨sr₁, ts₁, hpllar, hu₁, hsub, hsr₁⟩ :=
    run_act_unbroken (fun s => writeReg .pllar (pllarWithMula s.pllar 0) s) [microInval, .done] 0
      ((s.setCmd (encode .displla)).setSeq (.run (encode .displla) 0 {})) hu
  obtain ⟨sr, ts, hend, hadv⟩ := run_inval_done_advance 1
    (((s.setCmd (encode .displla)).setPllar (pllarWithMula s.pllar 0)).setSeq (.run (encode .displla) 1 {}))
    (lowerBit sr₁ lockaBit) hu₁
  have hrun : run seqDisplla 0 0 ((s.setCmd (encode .displla)).setSeq (.run (encode .displla) 0 {})) =
      ((((s.setCmd (encode .displla)).setPllar (pllarWithMula s.pllar 0)).setMckcache 0).setSr sr).setTurns ts := by
    refine (hpllar.trans hend).trans ?_
    rw [← hs]
    rfl
  refine ⟨sr, ts, _, hbegin.runs.trans (congrArg _ hrun), rfl, fun hq => ?_, ?_⟩
  · obtain ⟨_, hsr⟩ := hadv.silent fun e m => hq e (hsub _ m)
    rw [hsr, hsr₁ hq]
    rfl
  · have hhalf : (if mckrPlladiv2 s.mckr = 1 then 2 else 1) = if bitSet s.mckr 12 then 2 else 1 :=
      if_congr (bitField_one_eq_one_iff s.mckr 12) rfl rfl
    rw [← hhalf]
    exact pllDerive_mula_zero_toNat s.pllar (mckrPlladiv2 s.mckr) (fMain s)

end Sys2Proof.Machine
end

section
/-! PROOFS. Peripheral gating: the valid IDs, the words that are read from the window and written back to it, and the
commands as whole commands (spec/43_peripheral_gating.md R130 to R136). -/

namespace Sys2Proof.Machine

/-! ## Valid IDs (R130) -/

theorem nPeriph_bounds (p : Params) : 3 ≤ p.nPeriph ∧ p.nPeriph ≤ 128 := by
  have h := p.extraPeriph.isLt
  unfold Params.nPeriph
  omega

theorem validId_eq_false_iff (p : Params) (id : Nat) : validId p id = false ↔ id < 2 ∨ p.nPeriph ≤ id := by
  rw [← Bool.not_eq_true, validId_iff]
  omega

/-- Settles O9: the bounds on an ID, with those on `N_PERIPH`. -/
theorem validPeripheralIds : Obligations.ValidPeripheralIds := by
  intro p id
  obtain ⟨hmin, hmax⟩ := nPeriph_bounds p
  refine ⟨validId_iff p id, fun h => ?_, rfl, rfl, ?_, ?_⟩
  · exact (validId_eq_false_iff p id).2 (.inr (by omega))
  · exact (validId_iff p _).2 (by omega)
  · exact (validId_eq_false_iff p _).2 (by omega)

/-- `PCR.PID` holds every valid ID. -/
theorem selector_toNat {p : Params} {id : Nat} (h : validId p id = true) : (BitVec.ofNat 7 id).toNat = id := by
  obtain ⟨_, _, hlt⟩ := validId_lt h
  exact Nat.mod_eq_of_lt hlt

/-! ## Words of the window (R20, R131, R132) -/

/-- `PID` is what 7 bits can hold of the word. -/
theorem pcrPid_eq_setWidth (w : Word) : pcrPid w = w.setWidth 7 := by
  apply BitVec.eq_of_getLsbD_eq
  intro i hi
  rw [pcrPid, bitField_getLsbD _ _ _ _ hi, Nat.zero_add, BitVec.getLsbD_setWidth, decide_eq_true hi, Bool.true_and]

/-- No bit of a selector is one of a peripheral's word. -/
theorem selector_masked (sel : BitVec 7) : sel.setWidth 32 &&& cfgMask = 0 := by
  have low : ∀ i < 7, cfgMask.getLsbD i = false := by decide
  apply BitVec.eq_of_getLsbD_eq
  intro i _
  show (sel.setWidth 32 &&& cfgMask).getLsbD i = (0#32).getLsbD i
  rw [BitVec.getLsbD_and, BitVec.getLsbD_setWidth, BitVec.getLsbD_zero]
  by_cases hi : i < 7
  · rw [low i hi, Bool.and_false]
  · rw [BitVec.getLsbD_of_ge sel i (by omega), Bool.and_false, Bool.false_and]

/-- A legal store holds bits of the mask only (R20). -/
theorem StoreLegal.masked {p : Params} {m : PeriphStore} (h : StoreLegal p m) (id : Nat) :
    storeRead id m &&& cfgMask = storeRead id m := by
  rcases storeRead_eq_zero_or_mem id m with hzero | hmem
  · rw [hzero]
    exact BitVec.zero_and
  · obtain ⟨_, hunnamed⟩ := h.2 _ hmem
    calc storeRead id m &&& cfgMask
        = storeRead id m &&& cfgMask ||| storeRead id m &&& ~~~cfgMask := by rw [hunnamed]; exact BitVec.or_zero.symm
      _ = storeRead id m &&& (cfgMask ||| ~~~cfgMask) := BitVec.and_or_distrib_left.symm
      _ = storeRead id m := by
        rw [show cfgMask ||| ~~~cfgMask = BitVec.allOnes 32 by decide]
        exact BitVec.and_allOnes

/-- What a read of the window returns, taken apart: the selector and the word of the peripheral (R48). -/
theorem pcrRead_parts {s : State} (hid : validId s.params s.pcrSel.toNat = true) (hl : StoreLegal s.params s.periph) :
    pcrPid (pcrRead s) = s.pcrSel ∧ pcrRead s &&& cfgMask = storeRead s.pcrSel.toNat s.periph := by
  have hlow : (storeRead s.pcrSel.toNat s.periph).setWidth 7 = 0 := by
    rw [← hl.masked, BitVec.setWidth_and, show cfgMask.setWidth 7 = 0 by decide]
    exact BitVec.and_zero
  rw [pcrRead_valid hid, pcrPid_eq_setWidth]
  constructor
  · rw [BitVec.setWidth_or, hlow, BitVec.setWidth_setWidth_of_le _ (by omega), BitVec.setWidth_eq]
    exact BitVec.or_zero
  · rw [BitVec.and_or_distrib_right, selector_masked, hl.masked]
    exact BitVec.zero_or

/-- Written back, `f` of a word read from the window commits `g` of the peripheral's word, and the selector stays. -/
structure CommitsAs (f g : Word → Word) : Prop where
  commit : ∀ t, pcrCmd (f t) = true
  selector : ∀ t, pcrPid (f t) = pcrPid t
  word : ∀ t, f t &&& cfgMask = g (t &&& cfgMask)

/-- The word of a peripheral with its gate bit set. -/
def gateOn (x : Word) : Word := x ||| 0x10000000

/-- The word of a peripheral with its gate bit clear. -/
def gateOff (x : Word) : Word := x &&& ~~~0x10000000

theorem commitsAs_enableWord : CommitsAs enableWord gateOn where
  commit t := by
    have hcmd : pcrCmdBit.getLsbD 12 = true := by decide
    simp only [pcrCmd, bitSet, enableWord, BitVec.getLsbD_or, hcmd, Bool.or_true, Bool.true_or]
  selector t := by
    have hcmd : pcrCmdBit.setWidth 7 = 0#7 := by decide
    have hen : pcrEnBit.setWidth 7 = 0#7 := by decide
    simp only [pcrPid_eq_setWidth, enableWord, BitVec.setWidth_or, hcmd, hen, BitVec.or_zero]
  word t := by
    have hcmd : pcrCmdBit &&& cfgMask = 0#32 := by decide
    have hen : pcrEnBit &&& cfgMask = 0x10000000 := by decide
    simp only [enableWord, gateOn, BitVec.and_or_distrib_right, hcmd, hen, BitVec.or_zero]

theorem commitsAs_disableWord : CommitsAs disableWord gateOff where
  commit t := by
    have hcmd : pcrCmdBit.getLsbD 12 = true := by decide
    simp only [pcrCmd, bitSet, disableWord, BitVec.getLsbD_or, hcmd, Bool.or_true]
  selector t := by
    have hcmd : pcrCmdBit.setWidth 7 = 0#7 := by decide
    have hen : (~~~pcrEnBit).setWidth 7 = BitVec.allOnes 7 := by decide
    simp only [pcrPid_eq_setWidth, disableWord, BitVec.setWidth_or, BitVec.setWidth_and, hcmd, hen,
      BitVec.and_allOnes, BitVec.or_zero]
  word t := by
    have hcmd : pcrCmdBit &&& cfgMask = 0#32 := by decide
    calc disableWord t &&& cfgMask
        = t &&& ~~~pcrEnBit &&& cfgMask ||| pcrCmdBit &&& cfgMask := BitVec.and_or_distrib_right
      _ = t &&& ~~~pcrEnBit &&& cfgMask := by rw [hcmd, BitVec.or_zero]
      _ = gateOff (t &&& cfgMask) := by
        rw [BitVec.and_assoc, BitVec.and_comm (~~~pcrEnBit), ← BitVec.and_assoc]
        rfl

/-- R132 (a): a gate bit that is clear stays so. -/
theorem gateOff_gateOff (x : Word) : gateOff (gateOff x) = gateOff x := by
  unfold gateOff
  rw [BitVec.and_assoc, BitVec.and_self]

/-! ## The store with words rewritten (R21) -/

/-- The store with the word of `id` rewritten. -/
def updateWord (g : Word → Word) (m : PeriphStore) (id : Nat) : PeriphStore := storeWrite id (g (storeRead id m)) m

/-- The store with the words of all of `ids` rewritten, one after the other. -/
def updateWords (g : Word → Word) (ids : List Nat) (m : PeriphStore) : PeriphStore := ids.foldl (updateWord g) m

theorem updateWord_wf (g : Word → Word) {m : PeriphStore} (h : m.wf) (id : Nat) : (updateWord g m id).wf :=
  storeWrite_wf _ _ h

theorem updateWords_wf (g : Word → Word) (ids : List Nat) {m : PeriphStore} (h : m.wf) : (updateWords g ids m).wf := by
  induction ids generalizing m with
  | nil => exact h
  | cons id ids ih => exact ih (updateWord_wf g h id)

/-- A word that can be committed keeps the store legal. -/
theorem CommitsAs.updateWord_legal {f g : Word → Word} (h : CommitsAs f g) {p : Params} {m : PeriphStore}
    (hl : StoreLegal p m) {id : Nat} (hid : validId p id = true) : StoreLegal p (updateWord g m id) := by
  unfold updateWord
  rw [← hl.masked, ← h.word]
  exact hl.storeWrite hid _

section
variable {g : Word → Word}

/-- Rewriting that makes no difference a second time rewrites each word of `ids` once, however often it is listed. -/
theorem storeRead_updateWords (hg : ∀ x, g (g x) = g x) (ids : List Nat) (m : PeriphStore) (a : Nat) :
    storeRead a (updateWords g ids m) = if a ∈ ids then g (storeRead a m) else storeRead a m := by
  induction ids generalizing m with
  | nil => rfl
  | cons id ids ih =>
    show storeRead a (updateWords g ids (updateWord g m id)) = _
    rw [ih, updateWord, storeRead_write]
    by_cases ha : a = id
    · subst ha
      simp [hg]
    · simp [ha]

theorem updateWords_updateWords (hg : ∀ x, g (g x) = g x) (ids : List Nat) {m : PeriphStore} (h : m.wf) :
    updateWords g ids (updateWords g ids m) = updateWords g ids m := by
  have hwf := updateWords_wf g ids h
  refine store_ext (updateWords_wf g ids hwf) hwf fun a => ?_
  rw [storeRead_updateWords hg, storeRead_updateWords hg]
  split
  · exact hg _
  · rfl

end

/-- In a legal store the words of the IDs that are not valid are 0, so nothing is left for `DISALLP` to clear there. -/
theorem StoreLegal.storeRead_invalid {p : Params} {m : PeriphStore} (h : StoreLegal p m) {id : Nat}
    (hid : validId p id = false) : storeRead id m = 0 := by
  rcases storeRead_eq_zero_or_mem id m with hzero | hmem
  · exact hzero
  · obtain ⟨hvalid, _⟩ := h.2 _ hmem
    exact absurd hvalid (by simp [hid])

/-! ## Select, read, write back (R131 to R133, R135) -/

/-- The effect latches the selector `id` and, beside, changes the temporaries alone. -/
def Latches (id : Nat) (f : State → State) : Prop :=
  ∃ τ : Temps → Temps, ∀ s, f s = (s.setPcrSel (BitVec.ofNat 7 id)).setTemps (τ s.temps)

/-- An ID written to the window has no commit bit: it selects. -/
theorem pcrWrite_id {id : Nat} (h : id < 128) (s : State) :
    pcrWrite (BitVec.ofNat 32 id) s = s.setPcrSel (BitVec.ofNat 7 id) := by
  have hwide : BitVec.ofNat 32 id = (BitVec.ofNat 7 id).setWidth 32 := by
    apply BitVec.eq_of_toNat_eq
    rw [BitVec.toNat_setWidth, BitVec.toNat_ofNat, BitVec.toNat_ofNat]
    omega
  have hselect : pcrCmd (BitVec.ofNat 32 id) = false := by
    rw [hwide]
    exact selector_commit_bit _
  rw [pcrWrite_select hselect, pcrPid_eq_setWidth, BitVec.setWidth_ofNat_of_le (by omega)]

theorem setTemps_setPcrSel (s : State) (sel : BitVec 7) (t : Temps) :
    (s.setTemps t).setPcrSel sel = (s.setPcrSel sel).setTemps t := by
  unfold State.setTemps
  rw [State.setPcrSel_seq]
  split <;> rfl

/-- The first entry of a command with a peripheral ID. -/
theorem latches_select {id : Nat} (h : id < 128) :
    Latches id fun s => writeReg .pcr (BitVec.ofNat 32 id) s := by
  refine ⟨fun t => t, fun s => ?_⟩
  exact (pcrWrite_id h s).trans (State.setTemps_self (s.setPcrSel _)).symm

/-- The first entry of a round of `DISALLP`. -/
theorem latches_round {id : Nat} (h : id < 128) :
    Latches id fun s => writeReg .pcr (BitVec.ofNat 32 id) (s.setTemps { s.temps with i := id }) := by
  refine ⟨fun t => { t with i := id }, fun s => ?_⟩
  exact (pcrWrite_id h _).trans (setTemps_setPcrSel s _ _)

theorem Latches.ignoresEnv {id : Nat} {f : State → State} (h : Latches id f) : (Micro.act f).IgnoresEnv := by
  obtain ⟨τ, hf⟩ := h
  intro s sr ts
  rw [hf, hf, ← setTemps_setSr_setTurns]
  rfl

theorem ignoresEnv_microRd_pcr : (microRd .pcr).IgnoresEnv := fun s sr ts =>
  setTemps_setSr_setTurns s sr ts { s.temps with t := pcrRead s }

theorem ignoresEnv_microWr_pcr (f : Word → Word) : (microWr .pcr fun s => f s.temps.t).IgnoresEnv := fun s sr ts => by
  show pcrWrite (f s.temps.t) ((s.setSr sr).setTurns ts) = ((pcrWrite (f s.temps.t) s).setSr sr).setTurns ts
  rw [pcrWrite_eq, pcrWrite_eq]
  rfl

section
variable {s : State} {w : Word} {j : Nat} {t : Temps}

/-- An effect of the sequence, alone, in a command that runs: the sequencer goes on to the next index. -/
theorem run_act_alone_running (hturns : s.turns = []) {f : State → State} {u : State} {t' : Temps}
    (hf : f s = u.setSeq (.run w j t')) (rest : List Micro) (k : Nat) :
    run (.act f :: rest) 0 k s = run rest 0 (k + 1) (u.setSeq (.run w (k + 1) t')) := by
  rw [run_act_alone hturns, hf]
  rfl

theorem run_select_alone {id : Nat} {f : State → State} (h : Latches id f) (hturns : s.turns = [])
    (hseq : s.seq = .run w j t) (rest : List Micro) (k : Nat) :
    ∃ t', run (.act f :: rest) 0 k s =
      run rest 0 (k + 1) ((s.setPcrSel (BitVec.ofNat 7 id)).setSeq (.run w (k + 1) t')) := by
  obtain ⟨τ, hf⟩ := h
  have hlatched := State.setTemps_run (s := s.setPcrSel (BitVec.ofNat 7 id)) hseq (τ s.temps)
  exact ⟨_, run_act_alone_running hturns ((hf s).trans hlatched) rest k⟩

theorem run_read_alone (hturns : s.turns = []) (hseq : s.seq = .run w j t) (rest : List Micro) (k : Nat) :
    run (microRd .pcr :: rest) 0 k s =
      run rest 0 (k + 1) (s.setSeq (.run w (k + 1) { s.temps with t := pcrRead s })) :=
  run_act_alone_running hturns (State.setTemps_run hseq _) rest k

/-- Selecting and reading: the temporary holds what the window reads. -/
theorem run_select_read_alone {id : Nat} {f : State → State} (h : Latches id f) (hturns : s.turns = [])
    (hseq : s.seq = .run w j t) (rest : List Micro) (k : Nat) :
    ∃ t', t'.t = pcrRead (s.setPcrSel (BitVec.ofNat 7 id)) ∧
      run (.act f :: microRd .pcr :: rest) 0 k s =
        run rest 0 (k + 2) ((s.setPcrSel (BitVec.ofNat 7 id)).setSeq (.run w (k + 2) t')) := by
  obtain ⟨t₁, hselect⟩ := run_select_alone h hturns hseq (microRd .pcr :: rest) k
  have hread := run_read_alone (s := (s.setPcrSel (BitVec.ofNat 7 id)).setSeq (.run w (k + 1) t₁)) hturns rfl
    rest (k + 1)
  exact ⟨_, rfl, hselect.trans hread⟩

end

/-- The word read, rewritten and written back rewrites the selected peripheral's word (R131, R132). -/
theorem CommitsAs.pcrWrite_pcrRead {f g : Word → Word} (h : CommitsAs f g) {s : State}
    (hid : validId s.params s.pcrSel.toNat = true) (hl : StoreLegal s.params s.periph) :
    pcrWrite (f (pcrRead s)) s = s.setPeriph (updateWord g s.periph s.pcrSel.toNat) := by
  obtain ⟨hsel, hword⟩ := pcrRead_parts hid hl
  have hpid : pcrPid (f (pcrRead s)) = s.pcrSel := by rw [h.selector, hsel]
  rw [pcrWrite_commit (h.commit _) (by rw [hpid]; exact hid), hpid, h.word, hword]
  rfl

/-- Writing back, alone, what was read from the window and rewritten. -/
theorem CommitsAs.run_writeBack_alone {f g : Word → Word} (h : CommitsAs f g) {s : State} (hturns : s.turns = [])
    {w : Word} {j : Nat} {t : Temps} (hseq : s.seq = .run w j t) (ht : t.t = pcrRead s)
    (hid : validId s.params s.pcrSel.toNat = true) (hl : StoreLegal s.params s.periph) (rest : List Micro) (k : Nat) :
    run (microWr .pcr (fun s => f s.temps.t) :: rest) 0 k s =
      run rest 0 (k + 1) ((s.setPeriph (updateWord g s.periph s.pcrSel.toNat)).setSeq (.run w (k + 1) t)) := by
  refine run_act_alone_running (j := j) hturns ?_ rest k
  show pcrWrite (f s.temps.t) s = _
  rw [State.temps_run hseq, ht, h.pcrWrite_pcrRead hid hl, ← hseq]
  rfl

/-- The sequence selects, reads and writes back `f` of what it read, for each of `ids` in order, and ends. -/
inductive Rounds (f : Word → Word) : List Nat → List Micro → Prop where
  | done : Rounds f [] [.done]
  | round {id : Nat} {ids : List Nat} {f₀ : State → State} {ms : List Micro} (select : Latches id f₀)
      (rest : Rounds f ids ms) :
      Rounds f (id :: ids) (.act f₀ :: microRd .pcr :: microWr .pcr (fun s => f s.temps.t) :: ms)

theorem Rounds.ignoresEnv {f : Word → Word} {ids : List Nat} {ms : List Micro} (h : Rounds f ids ms) :
    ∀ m ∈ ms, m.IgnoresEnv := by
  induction h with
  | done => simpa using ignoresEnv_done
  | round select _ ih =>
    rw [List.forall_mem_cons, List.forall_mem_cons, List.forall_mem_cons]
    exact ⟨select.ignoresEnv, ignoresEnv_microRd_pcr, ignoresEnv_microWr_pcr f, ih⟩

/-- The state with the words of `ids` rewritten and the selector on the last of them. -/
def updatePeriphs (g : Word → Word) (ids : List Nat) (s : State) : State :=
  (s.setPcrSel (BitVec.ofNat 7 (ids.getLastD s.pcrSel.toNat))).setPeriph (updateWords g ids s.periph)

theorem updatePeriphs_nil (g : Word → Word) (s : State) : updatePeriphs g [] s = s := by
  show (s.setPcrSel (BitVec.ofNat 7 s.pcrSel.toNat)).setPeriph s.periph = s
  rw [BitVec.ofNat_toNat, BitVec.setWidth_eq]
  rfl

theorem updatePeriphs_cons (g : Word → Word) {p : Params} {id : Nat} (h : validId p id = true) (ids : List Nat)
    (s : State) :
    updatePeriphs g (id :: ids) s =
      updatePeriphs g ids ((s.setPcrSel (BitVec.ofNat 7 id)).setPeriph (updateWord g s.periph id)) := by
  unfold updatePeriphs
  rw [List.getLastD_cons, State.setPeriph_pcrSel, State.setPcrSel_pcrSel, selector_toNat h]
  rfl

/-- What the rounds do, alone. -/
theorem Rounds.run_alone {f g : Word → Word} (hfg : CommitsAs f g) {ids : List Nat} {ms : List Micro}
    (h : Rounds f ids ms) {s : State} (hturns : s.turns = []) {w : Word} {j : Nat} {t : Temps}
    (hseq : s.seq = .run w j t) (hids : ∀ id ∈ ids, validId s.params id = true) (hl : StoreLegal s.params s.periph)
    (k : Nat) : run ms 0 k s = (updatePeriphs g ids s).setSeq .idle := by
  induction h generalizing s j t k with
  | done => rw [run_done_alone hturns, updatePeriphs_nil]
  | @round id ids f₀ ms select rest ih =>
    obtain ⟨hid, hids⟩ := List.forall_mem_cons.1 hids
    have hsel : (BitVec.ofNat 7 id).toNat = id := selector_toNat hid
    obtain ⟨t', ht', hread⟩ := run_select_read_alone select hturns hseq
      (microWr .pcr (fun s => f s.temps.t) :: ms) k
    have hwrite := hfg.run_writeBack_alone (s := (s.setPcrSel (BitVec.ofNat 7 id)).setSeq (.run w (k + 2) t')) hturns
      rfl ht' (by rw [State.setSeq_pcrSel, State.setPcrSel_pcrSel, hsel]; exact hid) hl ms (k + 2)
    have hlegal : StoreLegal s.params (updateWord g s.periph id) := hfg.updateWord_legal hl hid
    rw [State.setSeq_pcrSel, State.setPcrSel_pcrSel, hsel] at hwrite
    rw [hread, hwrite, updatePeriphs_cons g hid]
    exact ih (s := ((s.setPcrSel (BitVec.ofNat 7 id)).setPeriph (updateWord g s.periph id)).setSeq
      (.run w (k + 3) t')) hturns rfl hids hlegal (k + 3)

/-- A command that is such rounds completes with the words rewritten (R136: the environment has no part in it). -/
theorem Begins.completes_rounds {i : Instr} {sq : List Micro} {s : State} (h : Begins i sq s) {f g : Word → Word}
    (hfg : CommitsAs f g) {ids : List Nat} (hr : Rounds f ids sq) (hids : ∀ id ∈ ids, validId s.params id = true)
    (hl : StoreLegal s.params s.periph) :
    ∃ sr ts, exec i s = .next (((updatePeriphs g ids (s.setCmd (encode i))).setSr sr).setTurns ts) ∧
      (Silent s.turns → sr = s.sr) := by
  refine h.completes hr.ignoresEnv ?_ h.idle
  rw [hr.run_alone hfg (s := ((s.setTurns []).setCmd (encode i)).setSeq _) rfl rfl hids hl]
  rfl

/-- With no turn listed it does exactly that. -/
theorem Begins.runs_rounds_alone {i : Instr} {sq : List Micro} {s : State} (h : Begins i sq s) (hturns : s.turns = [])
    {f g : Word → Word} (hfg : CommitsAs f g) {ids : List Nat} (hr : Rounds f ids sq)
    (hids : ∀ id ∈ ids, validId s.params id = true) (hl : StoreLegal s.params s.periph) :
    exec i s = .next (updatePeriphs g ids (s.setCmd (encode i))) := by
  rw [h.runs, hr.run_alone hfg (s := (s.setCmd (encode i)).setSeq _) hturns rfl hids hl, ← h.idle]
  rfl

/-! ## The commands that gate (R131 to R136) -/

theorem latches_operand {p : Params} {a : Byte} (h : validId p a.toNat = true) :
    Latches a.toNat fun s => writeReg .pcr (a.setWidth 32) s := by
  obtain ⟨_, _, hlt⟩ := validId_lt h
  rw [← BitVec.ofNat_toNat]
  exact latches_select hlt

theorem rounds_seqEnp {p : Params} {a : Byte} (h : validId p a.toNat = true) : Rounds enableWord [a.toNat] (seqEnp a) :=
  .round (latches_operand h) .done

theorem rounds_seqDisp {p : Params} {a : Byte} (h : validId p a.toNat = true) :
    Rounds disableWord [a.toNat] (seqDisp a) :=
  .round (latches_operand h) .done

theorem mem_gatedIds (p : Params) (id : Nat) : id ∈ gatedIds p ↔ validId p id = true := by
  obtain ⟨hmin, _⟩ := nPeriph_bounds p
  rw [gatedIds, List.mem_range'_1, validId_iff]
  omega

/-- The last ID that `DISALLP` visits is the last valid one. -/
theorem getLastD_gatedIds (p : Params) (d : Nat) : (gatedIds p).getLastD d = p.nPeriph - 1 := by
  have hlen : p.nPeriph - 2 = p.extraPeriph.val + 1 := rfl
  have hlast : p.nPeriph - 1 = 2 + 1 * p.extraPeriph.val := by
    unfold Params.nPeriph
    omega
  rw [gatedIds, hlen, List.range'_concat, List.getLastD_concat, hlast]

theorem rounds_flatMap_disableRound {ids : List Nat} (h : ∀ id ∈ ids, id < 128) :
    Rounds disableWord ids (ids.flatMap disableRound ++ [.done]) := by
  induction ids with
  | nil => exact .done
  | cons id ids ih =>
    obtain ⟨hid, hids⟩ := List.forall_mem_cons.1 h
    exact .round (latches_round hid) (ih hids)

theorem rounds_seqDisallp (p : Params) : Rounds disableWord (gatedIds p) (seqDisallp p) := by
  refine rounds_flatMap_disableRound fun id hid => ?_
  obtain ⟨_, _, hlt⟩ := validId_lt ((mem_gatedIds p id).1 hid)
  exact hlt

/-- One ID rewritten: the selector stands on the operand. -/
theorem updatePeriphs_operand (g : Word → Word) (a : Byte) (s : State) :
    updatePeriphs g [a.toNat] s =
      (s.setPcrSel (a.setWidth 7)).setPeriph (storeWrite a.toNat (g (storeRead a.toNat s.periph)) s.periph) := by
  rw [← BitVec.ofNat_toNat]
  rfl

/-- Settles O40: one round with the enable bit set. -/
theorem enpCompletes : Obligations.EnpCompletes := by
  intro s a hs hts hid hl
  have hbegin : Begins (.enp a) (seqEnp a) s := ⟨hs, hts, if_pos hid, rfl⟩
  have hdone := hbegin.completes_rounds commitsAs_enableWord (rounds_seqEnp hid) (by simpa using hid) hl
  rwa [updatePeriphs_operand] at hdone

/-- The command clears the gate bits of `ids`. -/
inductive Disables (p : Params) : Instr → List Nat → Prop where
  | disallp : Disables p .disallp (gatedIds p)
  | disp (a : Byte) (valid : validId p a.toNat = true) : Disables p (.disp a) [a.toNat]

theorem Disables.valid {p : Params} {i : Instr} {ids : List Nat} (h : Disables p i ids) :
    ∀ id ∈ ids, validId p id = true := by
  cases h with
  | disallp => exact fun id hid => (mem_gatedIds p id).1 hid
  | disp a hid => simpa using hid

section
variable {s : State} {i : Instr} {ids : List Nat}

theorem Disables.begins (h : Disables s.params i ids) (hs : s.seq = .idle) (hts : Unbroken s.turns) :
    ∃ sq, Begins i sq s ∧ Rounds disableWord ids sq := by
  cases h with
  | disallp => exact ⟨seqDisallp s.params, ⟨hs, hts, rfl, rfl⟩, rounds_seqDisallp s.params⟩
  | disp a hid => exact ⟨seqDisp a, ⟨hs, hts, if_pos hid, rfl⟩, rounds_seqDisp hid⟩

/-- What either command does, whatever the environment does meanwhile. -/
theorem Disables.completes (h : Disables s.params i ids) (hs : s.seq = .idle) (hts : Unbroken s.turns)
    (hl : StoreLegal s.params s.periph) :
    ∃ sr ts, exec i s = .next (((updatePeriphs gateOff ids (s.setCmd (encode i))).setSr sr).setTurns ts) ∧
      (Silent s.turns → sr = s.sr) := by
  obtain ⟨sq, hbegin, hrounds⟩ := h.begins hs hts
  exact hbegin.completes_rounds commitsAs_disableWord hrounds h.valid hl

/-- What either command does where no other agent has a turn. -/
theorem Disables.exec_alone (h : Disables s.params i ids) (hs : s.seq = .idle) (hturns : s.turns = [])
    (hl : StoreLegal s.params s.periph) : exec i s = .next (updatePeriphs gateOff ids (s.setCmd (encode i))) := by
  have hts : Unbroken s.turns := by simp [Unbroken, hturns]
  obtain ⟨sq, hbegin, hrounds⟩ := h.begins hs hts
  exact hbegin.runs_rounds_alone hturns commitsAs_disableWord hrounds h.valid hl

end

/-- Settles O41: one round with the enable bit clear. -/
theorem dispCompletes : Obligations.DispCompletes := by
  intro s a hs hts hid hl
  have hdone := (Disables.disp a hid).completes hs hts hl
  rwa [updatePeriphs_operand] at hdone

/-- `DISALLP` leaves no gate bit set: it clears those of the valid IDs, and the words of the others are 0. -/
theorem storeRead_updateWords_gatedIds {p : Params} {m : PeriphStore} (h : StoreLegal p m) (id : Nat) :
    storeRead id (updateWords gateOff (gatedIds p) m) = gateOff (storeRead id m) := by
  rw [storeRead_updateWords gateOff_gateOff]
  split
  · rfl
  next hnot =>
    rw [mem_gatedIds, Bool.not_eq_true] at hnot
    rw [h.storeRead_invalid hnot]
    exact BitVec.zero_and.symm

/-- Settles O44: one round for each valid ID. -/
theorem disallpCompletes : Obligations.DisallpCompletes := by
  intro s hs hts hl
  obtain ⟨sr, ts, hexec, hsr⟩ := Disables.disallp.completes hs hts hl
  rw [updatePeriphs, getLastD_gatedIds] at hexec
  exact ⟨_, sr, ts, hexec, storeRead_updateWords_gatedIds hl, hsr⟩

/-! ## Disabling twice (R132, R135) -/

/-- Where rewriting a second time makes no difference to a word, it makes none to the state. -/
theorem updatePeriphs_updatePeriphs {g : Word → Word} (hg : ∀ x, g (g x) = g x) (ids : List Nat) {s : State}
    (h : s.periph.wf) : updatePeriphs g ids (updatePeriphs g ids s) = updatePeriphs g ids s := by
  cases ids with
  | nil => rw [updatePeriphs_nil]
  | cons id ids =>
    have hstore := updateWords_updateWords hg (id :: ids) h
    rw [updatePeriphs, updatePeriphs, State.setPeriph_periph, hstore, List.getLastD_cons, List.getLastD_cons]
    rfl

/-- Both commands clear the gate bits of valid IDs, if their check passes. -/
theorem exists_disables {p : Params} {i : Instr} (hi : i = .disallp ∨ ∃ a, i = .disp a)
    (hc : operandFault p i = none) : ∃ ids, Disables p i ids := by
  obtain rfl | ⟨a, rfl⟩ := hi
  · exact ⟨_, .disallp⟩
  · exact ⟨_, .disp a (by simpa [operandFault] using hc)⟩

/-- The rewritten store is legal, so that the command can be carried out again. -/
theorem CommitsAs.updateWords_legal {f g : Word → Word} (h : CommitsAs f g) {p : Params} {ids : List Nat}
    (hids : ∀ id ∈ ids, validId p id = true) {m : PeriphStore} (hl : StoreLegal p m) :
    StoreLegal p (updateWords g ids m) := by
  induction ids generalizing m with
  | nil => exact hl
  | cons id ids ih =>
    obtain ⟨hid, hids⟩ := List.forall_mem_cons.1 hids
    exact ih hids (h.updateWord_legal hl hid)

/-- Settles O45: a gate bit that is clear stays so, and equal words make equal stores. -/
theorem disablingTwiceIsDisablingOnce : Obligations.DisablingTwiceIsDisablingOnce := by
  intro s t u i hi hs hturns hc hl hfirst hsecond
  obtain ⟨ids, hd⟩ := exists_disables hi hc
  obtain rfl := Host.Outcome.next.inj ((hd.exec_alone hs hturns hl).symm.trans hfirst)
  have hlegal : StoreLegal s.params (updateWords gateOff ids s.periph) :=
    commitsAs_disableWord.updateWords_legal hd.valid hl
  have hagain := Disables.exec_alone (s := updatePeriphs gateOff ids (s.setCmd (encode i))) hd hs hturns hlegal
  obtain rfl := Host.Outcome.next.inj (hagain.symm.trans hsecond)
  exact updatePeriphs_updatePeriphs (s := s.setCmd (encode i)) gateOff_gateOff ids hl.1

/-! ## `ISENP` (R133) -/

/-- R133: the gate bit of the window is that of the selected peripheral. -/
theorem pcrEn_pcrRead_selected {s : State} {id : Nat} (h : validId s.params id = true) :
    pcrEn (pcrRead (s.setPcrSel (BitVec.ofNat 7 id))) = bitSet (storeRead id s.periph) 28 := by
  have hsel : (BitVec.ofNat 7 id).toNat = id := selector_toNat h
  have hhigh : ((BitVec.ofNat 7 id).setWidth 32).getLsbD 28 = false := by
    rw [BitVec.getLsbD_setWidth, BitVec.getLsbD_of_ge _ 28 (by omega), Bool.and_false]
  rw [pcrRead_valid (by rw [State.setPcrSel_pcrSel, hsel]; exact h), State.setPcrSel_pcrSel, hsel, pcrEn, bitSet,
    BitVec.getLsbD_or, hhigh, Bool.false_or]
  rfl

/-- The end of a query, alone. -/
theorem run_res_done_alone {s : State} (hturns : s.turns = []) (v : State → Word) (k : Nat) :
    run [microRes v, .done] 0 k s = (s.setResult (v s)).setSeq .idle := by
  have hrest : ((s.setResult (v s)).setIndex (k + 1)).turns = [] := by
    rw [State.setIndex_turns]
    exact hturns
  rw [microRes, run_act_alone hturns, run_done_alone hrest, setSeq_setIndex]

/-- Settles O42: the word read is kept in the temporary, and its bit 28 is the peripheral's. -/
theorem isenpCompletes : Obligations.IsenpCompletes := by
  intro s a hs hts hid
  have hbegin : Begins (.isenp a) (seqIsenp a) s := ⟨hs, hts, if_pos hid, rfl⟩
  have hselect := latches_operand hid
  have hresult : (microRes fun s => if pcrEn s.temps.t then 1 else 0).IgnoresEnv :=
    ignoresEnv_microRes fun _ _ _ => rfl
  have hsq : ∀ m ∈ seqIsenp a, m.IgnoresEnv := by
    simpa [seqIsenp] using ⟨hselect.ignoresEnv, ignoresEnv_microRd_pcr, hresult, ignoresEnv_done⟩
  obtain ⟨t, ht, hread⟩ := run_select_read_alone hselect
    (s := ((s.setTurns []).setCmd (encode (.isenp a))).setSeq (.run (encode (.isenp a)) 0 {})) rfl rfl
    [microRes fun s => if pcrEn s.temps.t then 1 else 0, .done] 0
  have hgate : pcrEn t.t = bitSet (storeRead a.toNat s.periph) 28 := by
    rw [ht]
    exact pcrEn_pcrRead_selected hid
  refine hbegin.completes hsq (u := ((s.setCmd (encode (.isenp a))).setPcrSel (a.setWidth 7)).setResult
    (if bitSet (storeRead a.toNat s.periph) 28 then 1 else 0)) ?_ hs
  refine (hread.trans (run_res_done_alone rfl _ 2)).trans ?_
  rw [← hgate, ← BitVec.ofNat_toNat]
  rfl

/-! ## `GETPCLK` (R134) -/

theorem seqGetpclk_of_zero {p : Params} {a : Byte} (h : p.divisor a.toNat = 0) :
    seqGetpclk p a = [microRes fun _ => 0, .done] :=
  if_pos h

theorem seqGetpclk_of_ne_zero {p : Params} {a : Byte} (h : p.divisor a.toNat ≠ 0) :
    seqGetpclk p a =
      callGetmck microKeepMck ++ [microRes fun s => s.temps.t / p.divisor a.toNat, .done] :=
  if_neg h

/-- Settles O43: the divisor, a parameter, chooses between a constant and a call of `GETMCK`. -/
theorem getpclkCompletes : Obligations.GetpclkCompletes := by
  intro s a hs hts hid
  have hbegin : Begins (.getpclk a) (seqGetpclk s.params a) s := ⟨hs, hts, if_pos hid, rfl⟩
  dsimp only
  by_cases hd : s.params.divisor a.toNat = 0
  · rw [seqGetpclk_of_zero hd] at hbegin
    rw [if_pos hd, if_pos hd]
    exact hbegin.completes_res fun _ _ _ _ _ => rfl
  · rw [seqGetpclk_of_ne_zero hd] at hbegin
    rw [if_neg hd, if_neg hd]
    have hresult : (microRes fun u => u.temps.t / s.params.divisor a.toNat).IgnoresEnv :=
      ignoresEnv_microRes fun _ _ _ => rfl
    exact hbegin.completes_callGetmck
      (u := ((s.setCmd (encode (.getpclk a))).setMckcache (memoOrDerived s)).setResult
        (memoOrDerived s / s.params.divisor a.toNat))
      ignoresEnv_microKeepMck (by simpa using ⟨hresult, ignoresEnv_done⟩) (fun _ => rfl) hs

end Sys2Proof.Machine
end

section
/-! PROOFS. The programmable clocks: the ready bit of a unit and the environment, the commands as whole commands, and
the units a command does not name (spec/44_programmable_clocks.md R150 to R155). -/

namespace Sys2Proof.Machine

/-! ## The ready bit of a unit over an environment step (R27) -/

/-- `EnvPckUp(n)` raises the ready bit of an enabled unit. -/
theorem pckrdy_envStep_pckUp (n : Fin 3) (s : State) :
    (envStep (.pckUp n) s).pckrdy n = (s.pckrdy n || s.pcken n) := by
  cases hready : s.pckrdy n with
  | true => simp [envStep, hready]
  | false =>
    cases henable : s.pcken n with
    | true =>
      rw [envStep_pckUp hready henable]
      exact raiseBit_self s.sr (pckrdyBit_lt n)
    | false => simp [envStep, hready, henable]

/-- `EnvPckDown(n)` lowers the ready bit of a disabled unit. -/
theorem pckrdy_envStep_pckDown (n : Fin 3) (s : State) :
    (envStep (.pckDown n) s).pckrdy n = (s.pckrdy n && s.pcken n) := by
  cases hready : s.pckrdy n with
  | false => simp [envStep, hready]
  | true =>
    cases henable : s.pcken n with
    | false =>
      rw [envStep_pckDown hready henable]
      exact lowerBit_self s.sr (pckrdyBit_lt n)
    | true => simp [envStep, hready, henable]

/-- No other step of the environment moves the ready bit of unit `n`. -/
theorem pckrdy_envStep_other {e : EnvStep} {n : Fin 3} (hup : e ≠ .pckUp n) (hdown : e ≠ .pckDown n) (s : State) :
    (envStep e s).pckrdy n = s.pckrdy n := by
  show bitSet (envStep e s).sr (pckrdyBit n) = bitSet s.sr (pckrdyBit n)
  rcases envStep_sr e s with hsr | ⟨i, hi, hsr⟩ | ⟨m, rfl, hsr⟩ <;> rw [hsr]
  · exact raiseBit_other _ (pckrdyBit_lt n) fun h => hup (hi.unique (.pckUp n) h.symm)
  · exact lowerBit_other _ (pckrdyBit_lt n) fun h => hdown (by rw [pckrdyBit_injective h])

/-- The environment's step that brings the ready bit of unit `n` to `up`. -/
def unitAnswer (n : Fin 3) : Bool → EnvStep
  | true => .pckUp n
  | false => .pckDown n

/-- That step answers a command which has brought the enable of the unit to `up`. -/
theorem pckrdy_envStep_unitAnswer {n : Fin 3} {up : Bool} {s : State} (h : s.pcken n = up) :
    (envStep (unitAnswer n up) s).pckrdy n = up := by
  cases up with
  | true => rw [unitAnswer, pckrdy_envStep_pckUp, h, Bool.or_true]
  | false => rw [unitAnswer, pckrdy_envStep_pckDown, h, Bool.and_false]

/-- A ready bit is moved away from `up` by the opposite step only, and not while the unit's enable is `up`. -/
theorem pckrdy_envStep_keep {e : EnvStep} {n : Fin 3} {up : Bool} {s : State} (h : s.pckrdy n = up)
    (hstay : s.pcken n = up ∨ e ≠ unitAnswer n (!up)) : (envStep e s).pckrdy n = up := by
  by_cases hup : e = .pckUp n
  · rw [hup, pckrdy_envStep_pckUp, h]
    cases up with
    | true => rfl
    | false => exact hstay.resolve_right fun no => no hup
  · by_cases hdown : e = .pckDown n
    · rw [hdown, pckrdy_envStep_pckDown, h]
      cases up with
      | true => exact hstay.resolve_right fun no => no hdown
      | false => rfl
    · rw [pckrdy_envStep_other hup hdown, h]

/-- The turns before a micro-operation keep the ready bit of a unit whose enable agrees with it, or whose opposite step
is not among them. -/
theorem await_keeps_pckrdy {n : Fin 3} {up : Bool} (c : State → Bool) {ts : List Turn} {s : State}
    (hr : Turn.reset ∉ ts) (hstay : s.pcken n = up ∨ .env (unitAnswer n (!up)) ∉ ts) (h : s.pckrdy n = up) :
    (await c ts s).2.pckrdy n = up := by
  have hkept := await_keeps (fun u => u.pcken n = s.pcken n ∧ u.pckrdy n = up) c ts s
    (env := fun e m u hu => ?_) (reset := fun m => absurd m hr) (turns := fun _ _ hu => hu) ⟨rfl, h⟩
  · obtain ⟨_, hready⟩ := hkept
    exact hready
  · obtain ⟨henable, hready⟩ := hu
    have hstay' : u.pcken n = up ∨ e ≠ unitAnswer n (!up) :=
      hstay.imp henable.trans fun absent heq => absent (heq ▸ m)
    exact ⟨by rw [envStep_eq]; exact henable, pckrdy_envStep_keep hready hstay'⟩

/-! ## A write of the enables and its wait (R151 to R153) -/

/-- The ready bit of unit `n` is `up`, as a condition on `SR`. -/
def pckrdyIs (n : Fin 3) : Bool → Word → Bool
  | true, sr => bitSet sr (pckrdyBit n)
  | false, sr => !bitSet sr (pckrdyBit n)

theorem pckrdyIs_iff {n : Fin 3} {up : Bool} {sr : Word} : pckrdyIs n up sr = true ↔ bitSet sr (pckrdyBit n) = up := by
  cases up <;> simp [pckrdyIs]

/-- The fairness premise of a command that brings unit `n` to `up`: its ready bit is `up` and the environment does not
move it away, or the environment answers the command's first micro-operation. -/
def UnitSettles (n : Fin 3) (up : Bool) (s : State) : Prop :=
  Unbroken s.turns ∧ s.pckrdy n = up ∧ .env (unitAnswer n (!up)) ∉ s.turns ∨ Answers (unitAnswer n up) s.turns

/-- An environment that answers is not silent. -/
theorem Answers.not_silent {e : EnvStep} {ts : List Turn} (h : Answers e ts) : ¬ Silent ts := by
  obtain ⟨_, before, after, rfl, _, hmem⟩ := h
  exact fun hq => hq e (by simp [hmem])

section
variable {n : Fin 3} {up : Bool} {s : State}

theorem UnitSettles.unbroken (h : UnitSettles n up s) : Unbroken s.turns :=
  h.elim And.left And.left

/-- When the engine makes the first micro-operation, the ready bit is `up` or the answer is still to come. -/
theorem UnitSettles.await_first (h : UnitSettles n up s) :
    ∃ sr ts, await (fun _ => true) s.turns s = (true, (s.setSr sr).setTurns ts) ∧ Unbroken ts ∧
      (bitSet sr (pckrdyBit n) = up ∨ .env (unitAnswer n up) ∈ ts) ∧ (Silent s.turns → Silent ts ∧ sr = s.sr) := by
  rcases h with ⟨hu, hready, habsent⟩ | ha
  · obtain ⟨sr, ts, hawait, hu', hsub, hsr⟩ := await_unbroken s.turns s hu
    have hkept := await_keeps_pckrdy (fun _ => true) hu.1 (.inr habsent) hready
    rw [hawait] at hkept
    exact ⟨sr, ts, hawait, hu', .inl hkept, fun hq => ⟨fun e m => hq e (hsub _ m), hsr hq⟩⟩
  · obtain ⟨sr, ts, hawait, hu', hmem⟩ := await_answers ha s
    exact ⟨sr, ts, hawait, hu', .inr hmem, fun hq => absurd hq ha.not_silent⟩

/-- The turns before the wait for a unit whose enable is `up`. -/
theorem await_pckrdyIs {ts : List Turn} (henable : s.pcken n = up) (hu : Unbroken ts)
    (h : bitSet s.sr (pckrdyBit n) = up ∨ .env (unitAnswer n up) ∈ ts) :
    ∃ sr ts', await (fun v => pckrdyIs n up v.sr) ts s = (true, (s.setSr sr).setTurns ts') ∧ Unbroken ts' ∧
      bitSet sr (pckrdyBit n) = up ∧ (Silent ts → Silent ts' ∧ sr = s.sr) := by
  have enabled (u : State) (hu : u.pckenr = s.pckenr) : u.pcken n = up := by
    rw [← henable, State.pcken, hu]
    rfl
  obtain ⟨sr, ts', hawait, hu', hsub, hready, hsr⟩ := await_answered (pckrdyIs n up) (unitAnswer n up) s.pckenr
    (fun e u hP hg => pckrdyIs_iff.2 (pckrdy_envStep_keep (pckrdyIs_iff.1 hg) (.inl (enabled u hP))))
    (fun u hP => pckrdyIs_iff.2 (pckrdy_envStep_unitAnswer (enabled u hP))) ts s rfl hu (h.imp_left pckrdyIs_iff.2)
  exact ⟨sr, ts', hawait, hu', pckrdyIs_iff.1 hready, fun hq => ⟨fun e m => hq e (hsub _ m), hsr hq⟩⟩

/-- The engine's way from the start of a command over the write of the enables and the wait: the ready bit is `up`. -/
theorem UnitSettles.run_switch (h : UnitSettles n up s) {change : Word → Word}
    (hchange : bitSet (change s.pckenr) n.val = up) (w : Word) (rest : List Micro) :
    ∃ sr ts, run (microWr .pckenr (fun v => change v.pckenr) :: .wait (fun v => pckrdyIs n up v.sr) :: rest) 0 0
          ((s.setCmd w).setSeq (.run w 0 {})) =
        run rest 0 2 (((((s.setCmd w).setPckenr (change s.pckenr)).setSeq (.run w 2 {})).setSr sr).setTurns ts) ∧
      Unbroken ts ∧ bitSet sr (pckrdyBit n) = up ∧ (Silent s.turns → Silent ts ∧ sr = s.sr) := by
  obtain ⟨sr₁, ts₁, hwrite, hu₁, hcoming, hq₁⟩ := UnitSettles.await_first (s := (s.setCmd w).setSeq (.run w 0 {})) h
  obtain ⟨sr₂, ts₂, hwait, hu₂, hready, hq₂⟩ := await_pckrdyIs
    (s := ((((s.setCmd w).setPckenr (change s.pckenr)).setSeq (.run w 1 {})).setSr sr₁).setTurns ts₁)
    hchange hu₁ hcoming
  refine ⟨sr₂, ts₂, ?_, hu₂, hready, fun hq => ?_⟩
  · calc run (microWr .pckenr (fun v => change v.pckenr) :: .wait (fun v => pckrdyIs n up v.sr) :: rest) 0 0
            ((s.setCmd w).setSeq (.run w 0 {}))
        = run (.wait (fun v => pckrdyIs n up v.sr) :: rest) 0 1
            (((((s.setCmd w).setPckenr (change s.pckenr)).setSeq (.run w 1 {})).setSr sr₁).setTurns ts₁) := by
          rw [microWr, run_act, hwrite]
          rfl
      _ = _ := by
          rw [run_wait, State.setTurns_turns, hwait]
          rfl
  · obtain ⟨hq', hsr⟩ := hq₁ hq
    obtain ⟨hq'', hsr'⟩ := hq₂ hq'
    exact ⟨hq'', hsr'.trans hsr⟩

end

/-! ## Micro-operations that leave a unit alone -/

/-- The effect leaves the enable and the ready bit of unit `n`, and the turns, as they were. -/
structure LeavesUnit (n : Fin 3) (f : State → State) : Prop where
  enable : ∀ s, (f s).pcken n = s.pcken n
  ready : ∀ s, (f s).pckrdy n = s.pckrdy n
  turns : ∀ s, (f s).turns = s.turns

/-- A write of the enables leaves the units alone whose bit it keeps. -/
theorem leavesUnit_writePckenr {n : Fin 3} {change : Word → Word}
    (h : ∀ w, bitSet (change w) n.val = bitSet w n.val) :
    LeavesUnit n fun s => writeReg .pckenr (change s.pckenr) s :=
  ⟨fun s => h s.pckenr, fun _ => rfl, fun _ => rfl⟩

theorem leavesUnit_writePck (n m : Fin 3) (v : State → Word) : LeavesUnit n fun s => writeReg (.pck m) (v s) s :=
  ⟨fun _ => rfl, fun _ => rfl, fun _ => rfl⟩

theorem leavesUnit_setResult (n : Fin 3) (v : State → Word) : LeavesUnit n fun s => s.setResult (v s) :=
  ⟨fun _ => rfl, fun _ => rfl, fun _ => rfl⟩

/-- Every effect of the sequence leaves unit `n` alone. -/
def LeaveUnit (n : Fin 3) (ms : List Micro) : Prop := ∀ f, Micro.act f ∈ ms → LeavesUnit n f

section
variable {n : Fin 3} {ms : List Micro}

theorem LeaveUnit.nil : LeaveUnit n [] := fun _ hf => by simp at hf

theorem LeaveUnit.cons_act {f : State → State} (h : LeavesUnit n f) (hs : LeaveUnit n ms) :
    LeaveUnit n (.act f :: ms) := fun g hg => by
  rcases List.mem_cons.1 hg with heq | hg
  · obtain rfl := Micro.act.inj heq
    exact h
  · exact hs g hg

theorem LeaveUnit.cons_wait {c : State → Bool} (hs : LeaveUnit n ms) : LeaveUnit n (.wait c :: ms) :=
  fun f hf => hs f (by simpa using hf)

theorem LeaveUnit.cons_done (hs : LeaveUnit n ms) : LeaveUnit n (.done :: ms) :=
  fun f hf => hs f (by simpa using hf)

/-- Such a sequence keeps what the environment and the sequencer's bookkeeping keep of the unit. -/
theorem LeaveUnit.run_keeps (h : LeaveUnit n ms) (Q : Bool → Bool → Prop)
    (env : ∀ e (u : State), Q (u.pcken n) (u.pckrdy n) → Q (u.pcken n) ((envStep e u).pckrdy n))
    (j k : Nat) {s : State} (hr : Turn.reset ∉ s.turns) (hs : Q (s.pcken n) (s.pckrdy n)) :
    Q ((run ms j k s).pcken n) ((run ms j k s).pckrdy n) := by
  have hkept := Machine.run_keeps (fun u => Turn.reset ∉ u.turns ∧ Q (u.pcken n) (u.pckrdy n)) ms
    (turns := fun c u hu => ?_) (acts := fun f hf u i hu => ?_) (index := fun u i hu => ?_)
    (finish := fun _ hu => hu) j k s ⟨hr, hs⟩
  · obtain ⟨_, hQ⟩ := hkept
    exact hQ
  · obtain ⟨hru, hQ⟩ := hu
    refine ⟨fun m => hru ((await_noReset c u.turns u hru).2 _ m), ?_⟩
    refine await_keeps (fun v => Q (v.pcken n) (v.pckrdy n)) c u.turns u (fun e _ v hv => ?_)
      (fun m => absurd m hru) (fun _ _ hv => hv) hQ
    have henable : (envStep e v).pcken n = v.pcken n := by
      rw [envStep_eq]
      rfl
    rw [henable]
    exact env e v hv
  · obtain ⟨henable, hready, hturns⟩ := h f hf
    rw [setIndex_eq]
    show Turn.reset ∉ (f u).turns ∧ Q ((f u).pcken n) ((f u).pckrdy n)
    rw [hturns, henable, hready]
    exact hu
  · rw [setIndex_eq]
    exact hu

end

/-! ## `CFGPCK`, `ENPCK` and `DISPCK` (R151 to R153) -/

/-- A command that brings the enable of unit `n` to `up` and waits for its ready bit, the environment having no part in
the rest, completes with what the rest does alone, and the ready bit is `up`. -/
theorem Begins.completes_unit {i : Instr} {n : Fin 3} {up : Bool} {change : Word → Word} {rest : List Micro}
    {s u : State}
    (h : Begins i (microWr .pckenr (fun v => change v.pckenr) :: .wait (fun v => pckrdyIs n up v.sr) :: rest) s)
    (hs : UnitSettles n up s) (hchange : bitSet (change s.pckenr) n.val = up)
    (hrest : ∀ m ∈ rest, m.IgnoresEnv) (hunit : LeaveUnit n rest)
    (alone : run rest 0 2
      ((((s.setTurns []).setCmd (encode i)).setPckenr (change s.pckenr)).setSeq (.run (encode i) 2 {})) =
        (u.setTurns []).setSeq .idle) (hu : u.seq = .idle) :
    ∃ sr ts, exec i s = .next ((u.setSr sr).setTurns ts) ∧ bitSet sr (pckrdyBit n) = up ∧
      (Silent s.turns → sr = s.sr) := by
  obtain ⟨sr₁, ts₁, hswitch, hu₁, hready, hq₁⟩ := hs.run_switch hchange (encode i) rest
  obtain ⟨sr, ts, hrun, hsr⟩ := run_ignoring_env hrest 0 2
    (s := (((s.setTurns []).setCmd (encode i)).setPckenr (change s.pckenr)).setSeq (.run (encode i) 2 {})) rfl sr₁ hu₁
  have hidle : u.setSeq .idle = u := by
    rw [← hu]
    rfl
  have hend : run rest 0 2
      (((((s.setCmd (encode i)).setPckenr (change s.pckenr)).setSeq (.run (encode i) 2 {})).setSr sr₁).setTurns ts₁) =
        (u.setSr sr).setTurns ts := by
    rw [alone] at hrun
    refine hrun.trans ?_
    show ((u.setSeq .idle).setSr sr).setTurns ts = _
    rw [hidle]
  have hkept := hunit.run_keeps (fun enable ready => enable = up ∧ ready = up)
    (fun _ _ ⟨henable, hv⟩ => ⟨henable, pckrdy_envStep_keep hv (.inl henable)⟩) 0 2
    (s := ((((s.setCmd (encode i)).setPckenr (change s.pckenr)).setSeq (.run (encode i) 2 {})).setSr sr₁).setTurns ts₁)
    hu₁.1 ⟨hchange, hready⟩
  rw [hend] at hkept
  obtain ⟨_, hlast⟩ := hkept
  refine ⟨sr, ts, by rw [h.runs, hswitch, hend], hlast, fun hq => ?_⟩
  obtain ⟨hq', hsr₁⟩ := hq₁ hq
  exact (hsr hq').trans hsr₁

/-! The sequences, the operand being that of unit `n`. -/

theorem seqCfgpck_ofNat (n : Fin 3) (b c : Byte) : seqCfgpck (BitVec.ofNat 8 n.val) b c =
    callDispck n ++ [microWr (.pck n) fun _ => pckWord (b.setWidth 3) c, .done] := by
  rw [seqCfgpck, pckUnit_ofNat]

theorem seqEnpck_ofNat (n : Fin 3) : seqEnpck (BitVec.ofNat 8 n.val) =
    [microWr .pckenr fun s => raiseBit s.pckenr n.val, .wait fun s => s.pckrdy n, .done] := by
  rw [seqEnpck, pckUnit_ofNat]

theorem seqDispck_ofNat (n : Fin 3) : seqDispck (BitVec.ofNat 8 n.val) = callDispck n ++ [.done] := by
  rw [seqDispck, pckUnit_ofNat]

theorem leaveUnit_done (n : Fin 3) : LeaveUnit n [.done] := .cons_done .nil

/-- Settles O47: with the unit disabled and not ready, the write of its register and `done` are left. -/
theorem cfgpckCompletes : Obligations.CfgpckCompletes := by
  intro s n b c hs hsettles
  have hunit : UnitSettles n false s := hsettles
  have hbegin : Begins (.cfgpck (BitVec.ofNat 8 n.val) b c) (seqCfgpck (BitVec.ofNat 8 n.val) b c) s :=
    ⟨hs, hunit.unbroken, unit_check n _, rfl⟩
  have hwrite : (microWr (.pck n) fun _ => pckWord (b.setWidth 3) c).IgnoresEnv := fun _ _ _ => rfl
  rw [seqCfgpck_ofNat] at hbegin
  exact hbegin.completes_unit (change := (lowerBit · n.val)) (up := false) hunit
    (lowerBit_self s.pckenr (unit_lt n)) (by simpa using ⟨hwrite, ignoresEnv_done⟩)
    (.cons_act (leavesUnit_writePck n n _) (leaveUnit_done n)) rfl hs

/-- Settles O48. -/
theorem enpckCompletes : Obligations.EnpckCompletes := by
  intro s n hs hsettles
  have hunit : UnitSettles n true s := hsettles
  have hbegin : Begins (.enpck (BitVec.ofNat 8 n.val)) (seqEnpck (BitVec.ofNat 8 n.val)) s :=
    ⟨hs, hunit.unbroken, unit_check n _, rfl⟩
  rw [seqEnpck_ofNat] at hbegin
  exact hbegin.completes_unit (change := (raiseBit · n.val)) (up := true) hunit
    (raiseBit_self s.pckenr (unit_lt n)) (by simpa using ignoresEnv_done) (leaveUnit_done n) rfl hs

/-- Settles O49. -/
theorem dispckCompletes : Obligations.DispckCompletes := by
  intro s n hs hsettles
  have hunit : UnitSettles n false s := hsettles
  have hbegin : Begins (.dispck (BitVec.ofNat 8 n.val)) (seqDispck (BitVec.ofNat 8 n.val)) s :=
    ⟨hs, hunit.unbroken, unit_check n _, rfl⟩
  rw [seqDispck_ofNat] at hbegin
  exact hbegin.completes_unit (change := (lowerBit · n.val)) (up := false) hunit
    (lowerBit_self s.pckenr (unit_lt n)) (by simpa using ignoresEnv_done) (leaveUnit_done n) rfl hs

/-! ## `GETPCK` (R150, R154) -/

/-- R150: the prescaler plus one does not wrap. -/
theorem prescaler_toNat (p : Byte) : (p.setWidth 32 + 1).toNat = p.toNat + 1 := by
  have hp := p.isLt
  rw [BitVec.toNat_add, BitVec.toNat_setWidth]
  show (p.toNat % 2 ^ 32 + 1) % 2 ^ 32 = p.toNat + 1
  omega

/-- R150: the frequency of a programmable clock as a number. -/
theorem fPck_toNat (n : Fin 3) (s : State) :
    (fPck n s).toNat = (fSrc (pckCss s.pck[n]).toNat s).toNat / ((pckPres s.pck[n]).toNat + 1) := by
  rw [fPck, BitVec.toNat_udiv, prescaler_toNat]

/-- R150: it is a value of the configuration. -/
theorem fPck_ofConfiguration (n : Fin 3) : OfConfiguration (fPck n) := fun _ _ _ _ _ => rfl

theorem seqGetpck_ofNat (n : Fin 3) : seqGetpck (BitVec.ofNat 8 n.val) = [microRes (fPck n), .done] := by
  rw [seqGetpck, pckUnit_ofNat]

/-- Settles O46: a query of one `res`. -/
theorem getpckCompletes : Obligations.GetpckCompletes := by
  intro s n hs hts
  have hbegin : Begins (.getpck (BitVec.ofNat 8 n.val)) (seqGetpck (BitVec.ofNat 8 n.val)) s :=
    ⟨hs, hts, unit_check n _, rfl⟩
  rw [seqGetpck_ofNat] at hbegin
  obtain ⟨sr, ts, hexec, hsr⟩ := hbegin.completes_res (fPck_ofConfiguration n)
  exact ⟨sr, ts, fPck n s, hexec, fPck_toNat n s, hsr⟩

/-! ## The other units (R155) -/

section
variable {a : Byte} {m : Fin 3}

/-- The bit of one unit in `PCKENR` is not that of another. -/
theorem leavesUnit_raiseOther {n : Fin 3} (h : m ≠ n) :
    LeavesUnit m fun s => writeReg .pckenr (raiseBit s.pckenr n.val) s :=
  leavesUnit_writePckenr (change := (raiseBit · n.val)) fun w =>
    raiseBit_other w (unit_lt m) fun heq => h (Fin.ext heq)

theorem leavesUnit_lowerOther {n : Fin 3} (h : m ≠ n) :
    LeavesUnit m fun s => writeReg .pckenr (lowerBit s.pckenr n.val) s :=
  leavesUnit_writePckenr (change := (lowerBit · n.val)) fun w =>
    lowerBit_other w (unit_lt m) fun heq => h (Fin.ext heq)

/-- R155: a programmable-clock command is a sequence that leaves every other unit alone. -/
theorem exec_pck_runs {i : Instr} {b c : Byte}
    (hi : i = .cfgpck a b c ∨ i = .enpck a ∨ i = .dispck a ∨ i = .getpck a) (h : m ≠ pckUnit a) :
    ∃ sq, (∀ s, exec i s = .next (runCommand i sq s)) ∧ LeaveUnit m sq := by
  rcases hi with rfl | rfl | rfl | rfl
  · exact ⟨seqCfgpck a b c, fun _ => rfl, .cons_act (leavesUnit_lowerOther h)
      (.cons_wait (.cons_act (leavesUnit_writePck m _ _) (leaveUnit_done m)))⟩
  · exact ⟨seqEnpck a, fun _ => rfl, .cons_act (leavesUnit_raiseOther h) (.cons_wait (leaveUnit_done m))⟩
  · exact ⟨seqDispck a, fun _ => rfl, .cons_act (leavesUnit_lowerOther h) (.cons_wait (leaveUnit_done m))⟩
  · exact ⟨seqGetpck a, fun _ => rfl, .cons_act (leavesUnit_setResult m _) (leaveUnit_done m)⟩

end

theorem LeaveUnit.run_pcken {m : Fin 3} {ms : List Micro} (h : LeaveUnit m ms) (j k : Nat) {s : State}
    (hr : Turn.reset ∉ s.turns) : (run ms j k s).pcken m = s.pcken m :=
  h.run_keeps (fun enable _ => enable = s.pcken m) (fun _ _ hu => hu) j k hr rfl

theorem LeaveUnit.drop {m : Fin 3} {ms : List Micro} (h : LeaveUnit m ms) (k : Nat) : LeaveUnit m (ms.drop k) :=
  fun f hf => h f (List.mem_of_mem_drop hf)

/-- A command that is such a sequence keeps the enable of the unit, in every state of the sequencer. -/
theorem LeaveUnit.runCommand_pcken {m : Fin 3} {sq : List Micro} (h : LeaveUnit m sq) (i : Instr) {s : State}
    (hr : NoReset s.turns) : (runCommand i sq s).pcken m = s.pcken m := by
  cases hs : s.seq with
  | idle =>
    cases hc : operandFault s.params i with
    | some c =>
      rw [runCommand_fault hs hc]
      rfl
    | none =>
      rw [runCommand_idle hs hc]
      exact h.run_pcken 0 0 (s := (s.setCmd (encode i)).setSeq (.run (encode i) 0 {})) hr
  | run w k t =>
    by_cases hw : w = encode i
    · rw [runCommand_run (hw ▸ hs)]
      exact (h.drop k).run_pcken 0 k hr
    · rw [runCommand_other hs hw]
  | faulted => rw [runCommand_faulted hs]

/-- R58: the register of another unit is not one that the command may change. -/
theorem not_mayChange_otherPck {i : Instr} {a b c : Byte} {m : Fin 3}
    (hi : i = .cfgpck a b c ∨ i = .enpck a ∨ i = .dispck a ∨ i = .getpck a) (h : m ≠ pckUnit a) :
    ¬ mayChange i (.pck m) := by
  rcases hi with rfl | rfl | rfl | rfl
  · exact h
  all_goals exact id

/-- Settles O50: `PCK[m]` by the frame of the command, the enable by its sequence, the ready bit by what moves it. -/
theorem programmableClockUnitsAreIndependent : Obligations.ProgrammableClockUnitsAreIndependent := by
  intro s t i a b c m hi hm hr he
  refine ⟨(exec_untouched hr he).regs (.pck m) (not_mayChange_otherPck hi hm), ?_, fun noUp noDown => ?_⟩
  · obtain ⟨sq, hsq, hleave⟩ := exec_pck_runs hi hm
    obtain rfl := Host.Outcome.next.inj ((hsq s).symm.trans he)
    exact hleave.runCommand_pcken i hr
  · obtain ⟨_, _, rises, falls, _⟩ := statusBitsMoveOnlyByTheirCauses i s t m hr he
    exact Bool.eq_iff_iff.2 ⟨rises noUp, falls noDown⟩

end Sys2Proof.Machine
end

section
/-! PROOFS. Where a fault comes from, and that the model itself never stops with one (spec/60_exceptions.md R170, R173 to
R175, R177). -/

namespace Sys2Proof.Machine

/-! ## No micro-operation begins or ends a command (R66) -/

/-- Replacing the index moves the sequencer neither to nor from a state in which nothing runs. -/
theorem setIndex_seq_iff {q : Seq} (hq : ∀ w k t, q ≠ .run w k t) (s : State) (k : Nat) :
    (s.setIndex k).seq = q ↔ s.seq = q := by
  cases hs : s.seq with
  | run w j t =>
    rw [State.setIndex_run hs]
    exact ⟨fun h => absurd h.symm (hq _ _ _), fun h => absurd h.symm (hq _ _ _)⟩
  | _ => simp only [State.setIndex, hs]

/-- Nor does replacing the temporaries. -/
theorem setTemps_seq_iff {q : Seq} (hq : ∀ w k t, q ≠ .run w k t) (s : State) (t : Temps) :
    (s.setTemps t).seq = q ↔ s.seq = q := by
  cases hs : s.seq with
  | run w j t =>
    rw [State.setTemps_run hs]
    exact ⟨fun h => absurd h.symm (hq _ _ _), fun h => absurd h.symm (hq _ _ _)⟩
  | _ => simp only [State.setTemps, hs]

theorem Effect.seq_iff {q : Seq} (hq : ∀ w k t, q ≠ .run w k t) {i : Instr} {s u : State} (h : Effect i s u) :
    u.seq = q ↔ s.seq = q := by
  cases h with
  | write r v t => rw [writeReg_seq, setTemps_seq_iff hq]
  | result | forget | fill => rfl
  | temps t => exact setTemps_seq_iff hq s t

/-! ## Where a fault comes from (R170, R173, R174) -/

/-- The engine never goes to FAULTED: a command faults at its operand check, and so in IDLE only (R70). -/
theorem exec_faults {i : Instr} {s t : State} (he : exec i s = .next t) (hs : s.seq ≠ .faulted)
    (ht : t.seq = .faulted) :
    s.seq = .idle ∧ ∃ c, t = raiseFault c (operandA i) (s.setCmd (encode i)) := by
  have hq : ∀ w k t, Seq.faulted ≠ .run w k t := by simp
  have index (u : State) (k : Nat) (hu : u.seq ≠ .faulted) : (u.setIndex k).seq ≠ .faulted :=
    (setIndex_seq_iff hq u k).not.2 hu
  have turns (c : State → Bool) (u : State) (hu : u.seq ≠ .faulted) : (await c u.turns u).2.seq ≠ .faulted :=
    await_keeps (fun v => v.seq ≠ .faulted) c u.turns u (fun e _ v hv => by rw [envStep_eq]; exact hv)
      (fun _ v _ => by simp) (fun _ _ hv => hv) hu
  rcases exec_keeps i (fun u => u.seq ≠ .faulted) turns
      (fun u v effect k hu => index v k ((effect.seq_iff hq).not.2 hu)) index (fun _ _ => by simp) s t he with
    ⟨hidle, c, _, hfault⟩ | rfl | ⟨_, _, run⟩ | ⟨_, run⟩
  · exact ⟨hidle, c, hfault⟩
  · exact absurd ht hs
  · exact absurd ht (run (by simp))
  · exact absurd ht (run hs)

/-- A word written to `CMD` faults in IDLE only, be it a command or not (R64, R65). -/
theorem startWord_faults {w : Word} {s t : State} (h : startWord w s = .next t) (hs : s.seq ≠ .faulted)
    (ht : t.seq = .faulted) : s.seq = .idle ∧ ∃ c info, t = raiseFault c info (s.setCmd w) := by
  unfold startWord at h
  split at h
  next i hd =>
    obtain ⟨hidle, c, hfault⟩ := exec_faults h hs ht
    exact ⟨hidle, c, operandA i, by rw [hfault, encode_of_decode hd]⟩
  next =>
    obtain rfl := Host.Outcome.next.inj h
    unfold illegalCommand at ht ⊢
    split
    next hidle => exact ⟨hidle, _, _, rfl⟩
    next hrun => simp [hrun] at ht
    next hfaulted => exact absurd hfaulted hs

theorem hostRead_seq (off : Nat) (s : State) : (hostRead off s).seq = s.seq := by
  unfold hostRead
  split <;> rfl

theorem hostWrite_seq (off : Nat) (v : Word) (s : State) : (hostWrite off v s).seq = s.seq := by
  unfold hostWrite
  split
  · rfl
  · split
    · exact writeReg_seq _ v s
    · rfl

/-- The one access of the host that can fault is a write of a word to `CMD`. -/
theorem serveAccess_faults {a : HostAccess} {s t : State} (h : serveAccess a s = .next t) (hs : s.seq ≠ .faulted)
    (ht : t.seq = .faulted) :
    s.seq = .idle ∧ ∃ v c info, a = .write 0 4 v ∧ t = raiseFault c info (s.setCmd v) := by
  cases a with
  | read off width =>
    simp only [serveAccess] at h
    split at h
    · simp at h
    · obtain rfl := Host.Outcome.next.inj h
      exact absurd (hostRead_seq off s ▸ ht) hs
  | write off width v =>
    simp only [serveAccess] at h
    split at h
    · simp at h
    next hport =>
      by_cases hoff : off = 0
      · rw [if_pos hoff] at h
        obtain ⟨hidle, c, info, hfault⟩ := startWord_faults h hs ht
        have hwidth : width = 4 := by
          rw [portRefusal_eq_none_iff] at hport
          omega
        exact ⟨hidle, v, c, info, by rw [hoff, hwidth], hfault⟩
      · rw [if_neg hoff] at h
        obtain rfl := Host.Outcome.next.inj h
        exact absurd (hostWrite_seq off v s ▸ ht) hs

/-- A step from a state that is not FAULTED to FAULTED takes the fault of a word that the host, while IDLE, writes to
`CMD`. -/
def TakesFault (s t : State) : Prop :=
  s.seq = .idle ∧ ∃ v rest c info, s.script = .write 0 4 v :: rest ∧
    t = raiseFault c info ((s.setScript rest).setCmd v)

theorem hostTurn_faults {s t : State} (h : hostTurn s = .next t) (hs : s.seq ≠ .faulted) (ht : t.seq = .faulted) :
    TakesFault s t := by
  unfold hostTurn at h
  split at h
  · obtain rfl := Host.Outcome.next.inj h
    exact absurd ht hs
  next a rest hscript =>
    obtain ⟨hidle, v, c, info, rfl, hfault⟩ := serveAccess_faults (s := s.setScript rest) h hs ht
    exact ⟨hidle, v, rest, c, info, hscript, hfault⟩

theorem step_faults {s t : State} (h : step s = .next t) (hs : s.seq ≠ .faulted) (ht : t.seq = .faulted) :
    ∃ ts, TakesFault (s.setTurns ts) t := by
  cases hseq : s.seq with
  | faulted => exact absurd hseq hs
  | run w k u =>
    by_cases hreset : ∃ ts, s.turns = .reset :: ts
    · obtain ⟨ts, hts⟩ := hreset
      obtain rfl := Host.Outcome.next.inj ((step_reset hts).symm.trans h)
      simp at ht
    · rcases step_run_cases hseq (not_exists.1 hreset) with ⟨i, _, hcommand⟩ | ⟨_, _, hlost⟩
      · obtain ⟨hidle, _⟩ := exec_faults (hcommand.symm.trans h) hs ht
        exact absurd (hseq.symm.trans hidle) (by simp)
      · exact absurd (hlost.symm.trans h) (by simp)
  | idle =>
    simp only [step, hseq] at h
    unfold portTurn at h
    split at h
    next => exact ⟨s.turns, hostTurn_faults h hs ht⟩
    next ts _ => exact ⟨ts, hostTurn_faults (s := s.setTurns ts) h hs ht⟩
    next e ts _ =>
      obtain rfl := Host.Outcome.next.inj h
      rw [envStep_eq] at ht
      exact absurd ht hs
    next ts _ =>
      obtain rfl := Host.Outcome.next.inj h
      simp at ht
    next ts _ =>
      obtain rfl := Host.Outcome.next.inj h
      exact absurd ht hs

/-- Settles O18: `step_faults`, with what a fault writes. -/
theorem faultsComeFromCommandWordsOnly : Obligations.FaultsComeFromCommandWordsOnly := by
  intro s t h hs ht
  obtain ⟨ts, hidle, v, rest, c, info, hscript, rfl⟩ := step_faults h hs ht
  exact ⟨hidle, v, rest, hscript, rfl⟩

/-! ## The model never stops with a fault (R170, R177) -/

/-- The port serves an access or refuses it. -/
theorem serveAccess_ne_fault (a : HostAccess) (s : State) (r : Fault) : serveAccess a s ≠ .fault r := by
  cases a with
  | read off width =>
    simp only [serveAccess]
    split <;> simp
  | write off width v =>
    obtain ⟨t, hstart⟩ := startWord_next v s
    simp only [serveAccess, hstart]
    split
    · simp
    · split <;> simp

theorem hostTurn_ne_fault (s : State) (r : Fault) : hostTurn s ≠ .fault r := by
  unfold hostTurn
  split
  · simp
  next a rest _ => exact serveAccess_ne_fault a _ r

theorem portTurn_ne_fault (s : State) (r : Fault) : portTurn s ≠ .fault r := by
  unfold portTurn
  split
  next => exact hostTurn_ne_fault s r
  next ts _ => exact hostTurn_ne_fault _ r
  all_goals simp

/-- Settles O53: in a coherent state the running word is a command, and every command answers a next state. -/
theorem coherentStatesNeverStopWithAFault : Obligations.CoherentStatesNeverStopWithAFault := by
  rintro s r ⟨_, _, hlegal⟩ hstep
  cases hseq : s.seq with
  | run w k t =>
    obtain ⟨_, _, i, hd, _⟩ := (seqLegal_run hseq).1 hlegal
    by_cases hreset : ∃ ts, s.turns = .reset :: ts
    · obtain ⟨ts, hts⟩ := hreset
      exact absurd ((step_reset hts).symm.trans hstep) (by simp)
    · rcases step_run_cases hseq (not_exists.1 hreset) with ⟨j, _, hcommand⟩ | ⟨e, he, _⟩
      · obtain ⟨u, hnext⟩ := exec_next j s
        exact absurd (hnext.symm.trans (hcommand.symm.trans hstep)) (by simp)
      · exact absurd (hd.symm.trans he) (by simp)
  | idle =>
    simp only [step, hseq] at hstep
    exact portTurn_ne_fault s r hstep
  | faulted =>
    simp only [step, hseq] at hstep
    exact portTurn_ne_fault s r hstep

end Sys2Proof.Machine
end

section
/-! PROOFS. A command against the environment: what it leaves does not depend on the environment's steps but for `SR`, and
without a wait it ends (spec/10_state.md R27, spec/60_exceptions.md R172, R177). -/

namespace Sys2Proof.Machine

/-! ## The sequence of a command (R66) -/

/-- The sequence of each command. -/
def sequenceOf (p : Params) : Instr → List Micro
  | .getmck => seqGetmck
  | .getcpu => seqGetcpu
  | .getslck => seqGetslck
  | .getmainck => seqGetmainck
  | .getplla => seqGetplla
  | .inval => seqInval
  | .swmain => seqSwmain
  | .swpll => seqSwpll
  | .swslck => seqSwslck
  | .setpres a => seqSetpres a
  | .setmdiv a => seqSetmdiv a
  | .setplladiv2 a => seqSetplladiv2 a
  | .selxslck => switchSlowOscillator p 1
  | .selislck => switchSlowOscillator p 0
  | .setplla => seqSetplla
  | .displla => seqDisplla
  | .enp a => seqEnp a
  | .disp a => seqDisp a
  | .isenp a => seqIsenp a
  | .getpclk a => seqGetpclk p a
  | .disallp => seqDisallp p
  | .cfgpck a b c => seqCfgpck a b c
  | .enpck a => seqEnpck a
  | .dispck a => seqDispck a
  | .getpck a => seqGetpck a

/-- A command is a run of the engine over its sequence. -/
theorem exec_eq_sequenceOf (i : Instr) (s : State) : exec i s = .next (runCommand i (sequenceOf s.params i) s) := by
  cases i <;> rfl

/-! ## Effects that do not see the environment -/

/-- The effect reads neither `SR` nor the turns but to write `SR`, leaves the turns alone and ends no command. -/
structure EnvBlind (f : State → State) : Prop where
  blind : ∀ (s : State) sr ts, ∃ sr', f ((s.setSr sr).setTurns ts) = ((f s).setSr sr').setTurns ts
  idle : ∀ s : State, (f s).seq = .idle → s.seq = .idle

theorem idle_ne_run (w : Word) (k : Nat) (t : Temps) : Seq.idle ≠ .run w k t := by simp

/-- An effect that leaves `SR` alone as well. -/
theorem EnvBlind.of_ignoresEnv {f : State → State} (h : (Micro.act f).IgnoresEnv)
    (hidle : ∀ s : State, (f s).seq = .idle → s.seq = .idle) : EnvBlind f :=
  ⟨fun s sr ts => ⟨sr, h s sr ts⟩, hidle⟩

/-- Such an effect leaves the turns alone. -/
theorem EnvBlind.turns {f : State → State} (h : EnvBlind f) (s : State) : (f s).turns = s.turns := by
  obtain ⟨sr, hself⟩ : ∃ sr, f s = ((f s).setSr sr).setTurns s.turns := h.blind s s.sr s.turns
  rw [hself]
  rfl

/-- Of what a register write does, `SR` alone depends on `SR` (R47). -/
theorem writeReg_setSr_setTurns (r : Reg) (v : Word) (s : State) (sr : Word) (ts : List Turn) :
    ∃ sr', writeReg r v ((s.setSr sr).setTurns ts) = ((writeReg r v s).setSr sr').setTurns ts := by
  cases r with
  | pcr => exact ⟨sr, by rw [writeReg_pcr, writeReg_pcr, pcrWrite_eq, pcrWrite_eq]; rfl⟩
  | mckr => exact ⟨lowerBit sr mckrdyBit, rfl⟩
  | pllar => exact ⟨lowerBit sr lockaBit, rfl⟩
  | _ => exact ⟨sr, rfl⟩

/-- The value is the same whatever the environment does. -/
def EnvFree {α : Type} (v : State → α) : Prop := ∀ (s : State) sr ts, v ((s.setSr sr).setTurns ts) = v s

/-- A register write, beside a change of the temporaries. -/
theorem envBlind_write_temps (r : Reg) {v : State → Word} {τ : State → Temps} (hv : EnvFree v) (hτ : EnvFree τ) :
    EnvBlind fun s => writeReg r (v s) (s.setTemps (τ s)) where
  blind s sr ts := by
    obtain ⟨sr', hwrite⟩ := writeReg_setSr_setTurns r (v s) (s.setTemps (τ s)) sr ts
    exact ⟨sr', by rw [hv, hτ, setTemps_setSr_setTurns, hwrite]⟩
  idle s h := by
    rw [writeReg_seq] at h
    exact (setTemps_seq_iff idle_ne_run s _).1 h

theorem envBlind_write (r : Reg) {v : State → Word} (hv : EnvFree v) : EnvBlind fun s => writeReg r (v s) s := by
  have h := envBlind_write_temps r hv (τ := State.temps) fun _ _ _ => rfl
  simpa only [State.setTemps_self] using h

theorem envBlind_setTemps {τ : State → Temps} (hτ : EnvFree τ) : EnvBlind fun s => s.setTemps (τ s) :=
  .of_ignoresEnv (fun s sr ts => by rw [hτ, setTemps_setSr_setTurns])
    fun s h => (setTemps_seq_iff idle_ne_run s _).1 h

theorem envBlind_setResult {v : State → Word} (hv : EnvFree v) : EnvBlind fun s => s.setResult (v s) :=
  .of_ignoresEnv (ignoresEnv_microRes hv) fun _ h => h

theorem envBlind_setMckcache {v : State → Word} (hv : EnvFree v) : EnvBlind fun s => s.setMckcache (v s) :=
  .of_ignoresEnv (fun s sr ts => congrArg ((s.setSr sr).setTurns ts).setMckcache (hv s sr ts)) fun _ h => h

/-! ## Sequences whose effects do not see the environment -/

/-- No effect of the sequence and no condition of an `if` sees what the environment does; its waits may. -/
inductive BlindSequence : List Micro → Prop where
  | nil : BlindSequence []
  | act {f : State → State} {ms : List Micro} (effect : EnvBlind f) (rest : BlindSequence ms) :
      BlindSequence (.act f :: ms)
  | wait {c : State → Bool} {ms : List Micro} (rest : BlindSequence ms) : BlindSequence (.wait c :: ms)
  | ifThen {c : State → Bool} {n : Nat} {ms : List Micro} (test : EnvFree c) (rest : BlindSequence ms) :
      BlindSequence (.ifThen c n :: ms)
  | done {ms : List Micro} (rest : BlindSequence ms) : BlindSequence (.done :: ms)

namespace BlindSequence

theorem end_done : BlindSequence [.done] := .done .nil

theorem forget {rest : List Micro} (h : BlindSequence rest) : BlindSequence (microInval :: rest) :=
  .act (envBlind_setMckcache fun _ _ _ => rfl) h

theorem append {ms ns : List Micro} (h : BlindSequence ms) (h' : BlindSequence ns) : BlindSequence (ms ++ ns) := by
  induction h with
  | nil => exact h'
  | act effect _ ih => exact .act effect ih
  | wait _ ih => exact .wait ih
  | ifThen test _ ih => exact .ifThen test ih
  | done _ ih => exact .done ih

theorem changeMckr {v : State → Word} (hv : EnvFree v) {rest : List Micro} (h : BlindSequence rest) :
    BlindSequence (Machine.changeMckr v ++ rest) :=
  .act (envBlind_write .mckr hv) (.wait (forget h))

theorem res_done {v : State → Word} (hv : EnvFree v) : BlindSequence [microRes v, .done] :=
  .act (envBlind_setResult hv) end_done

theorem callGetmck {dest : Micro} {rest : List Micro} (h : BlindSequence (dest :: rest)) :
    BlindSequence (Machine.callGetmck dest ++ rest) :=
  .ifThen (fun _ _ _ => rfl) (.act (envBlind_setMckcache fun _ _ _ => rfl) h)

theorem callGetmck_keep {v : State → Word} (hv : EnvFree v) :
    BlindSequence (Machine.callGetmck microKeepMck ++ [microRes v, .done]) :=
  callGetmck (.act (envBlind_setTemps fun _ _ _ => rfl) (res_done hv))

theorem select_read (id : Word) {rest : List Micro} (h : BlindSequence rest) :
    BlindSequence (microSelect id :: microRd .pcr :: rest) :=
  .act (envBlind_write .pcr fun _ _ _ => rfl) (.act (envBlind_setTemps fun _ _ _ => rfl) h)

theorem read_modify_write (id : Word) (f : Word → Word) :
    BlindSequence [microSelect id, microRd .pcr, microWr .pcr fun s => f s.temps.t, .done] :=
  select_read id (.act (envBlind_write .pcr fun _ _ _ => rfl) end_done)

theorem disableRounds (ids : List Nat) : BlindSequence (ids.flatMap disableRound ++ [.done]) := by
  induction ids with
  | nil => exact end_done
  | cons id ids ih =>
    exact .act (envBlind_write_temps .pcr (fun _ _ _ => rfl) fun _ _ _ => rfl)
      (.act (envBlind_setTemps fun _ _ _ => rfl) (.act (envBlind_write .pcr fun _ _ _ => rfl) ih))

theorem callDispck (n : Fin 3) {rest : List Micro} (h : BlindSequence rest) :
    BlindSequence (Machine.callDispck n ++ rest) :=
  .act (envBlind_write .pckenr fun _ _ _ => rfl) (.wait h)

theorem settle (p : Params) : BlindSequence (Machine.settle p) := by
  unfold Machine.settle
  induction p.settleIter with
  | zero => exact .nil
  | succ n ih => exact .act (envBlind_setTemps fun _ _ _ => rfl) ih

theorem switchSlowOscillator (p : Params) (sel : BitVec 1) : BlindSequence (Machine.switchSlowOscillator p sel) := by
  have back : BlindSequence moveBack :=
    .ifThen (fun _ _ _ => rfl) (changeMckr (fun _ _ _ => rfl) (forget end_done))
  rw [switchSlowOscillator_eq]
  exact .ifThen (fun _ _ _ => rfl) (.act (envBlind_write_temps .mckr (fun _ _ _ => rfl) fun _ _ _ => rfl)
    (.wait (forget (.act (envBlind_write .oscr fun _ _ _ => rfl) ((settle p).append back)))))

end BlindSequence

/-- The environment has no part in any command but by the waits. -/
theorem blindSequence_sequenceOf (p : Params) (i : Instr) : BlindSequence (sequenceOf p i) := by
  cases i with
  | getmck => exact .callGetmck (.res_done fun _ _ _ => rfl)
  | getcpu => exact .callGetmck_keep fun _ _ _ => rfl
  | getslck | getmainck | getplla | getpck => exact .res_done fun _ _ _ => rfl
  | inval => exact .forget .end_done
  | swmain | swpll | swslck | setpres | setmdiv => exact .changeMckr (fun _ _ _ => rfl) .end_done
  | setplladiv2 a => exact .ifThen (fun _ _ _ => rfl) (.changeMckr (fun _ _ _ => rfl) .end_done)
  | selxslck => exact .switchSlowOscillator p 1
  | selislck => exact .switchSlowOscillator p 0
  | setplla =>
    exact .act (envBlind_write .pllar fun _ _ _ => rfl) (.act (envBlind_write .cpr fun _ _ _ => rfl)
      (.wait (.forget .end_done)))
  | displla =>
    exact .act (envBlind_write .pllar fun _ _ _ => rfl) (.forget .end_done)
  | enp a => exact .read_modify_write _ enableWord
  | disp a => exact .read_modify_write _ disableWord
  | isenp a => exact .select_read _ (.res_done fun _ _ _ => rfl)
  | getpclk a =>
    show BlindSequence (seqGetpclk p a)
    unfold seqGetpclk
    split
    · exact .res_done fun _ _ _ => rfl
    · exact .callGetmck_keep fun _ _ _ => rfl
  | disallp => exact .disableRounds _
  | cfgpck a b c => exact .callDispck _ (.act (envBlind_write _ fun _ _ _ => rfl) .end_done)
  | enpck a => exact .act (envBlind_write .pckenr fun _ _ _ => rfl) (.wait .end_done)
  | dispck a => exact .callDispck _ .end_done

/-! ## Runs that end, entry by entry -/

/-- The turns before an entry of a run, as far as the run ends: the environment moves `SR`, and the engine makes its step,
for otherwise the command would still be in progress. -/
theorem await_of_ended {c : State → Bool} {s t : State} (hr : NoReset s.turns) (hs : s.seq ≠ .idle)
    (hend : (if (await c s.turns s).1 then t else (await c s.turns s).2).seq = .idle) :
    ∃ sr ts, await c s.turns s = (true, (s.setSr sr).setTurns ts) ∧ NoReset ts := by
  obtain ⟨hframe, hsub⟩ := await_noReset c s.turns s hr
  have hgo : (await c s.turns s).1 = true := by
    by_contra hstay
    rw [if_neg hstay, hframe] at hend
    exact hs hend
  exact ⟨_, _, Prod.ext hgo hframe, fun m => hr (hsub _ m)⟩

section
variable {ms : List Micro} {k : Nat} {s : State}

theorem run_act_of_ended {f : State → State} (hr : NoReset s.turns) (hs : s.seq ≠ .idle)
    (hend : (run (.act f :: ms) 0 k s).seq = .idle) :
    ∃ sr ts, run (.act f :: ms) 0 k s = run ms 0 (k + 1) ((f ((s.setSr sr).setTurns ts)).setIndex (k + 1)) ∧
      NoReset ts := by
  rw [run_act] at hend ⊢
  obtain ⟨sr, ts, hawait, hts⟩ := await_of_ended hr hs hend
  exact ⟨sr, ts, by rw [hawait]; rfl, hts⟩

theorem run_wait_of_ended {c : State → Bool} (hr : NoReset s.turns) (hs : s.seq ≠ .idle)
    (hend : (run (.wait c :: ms) 0 k s).seq = .idle) :
    ∃ sr ts, run (.wait c :: ms) 0 k s = run ms 0 (k + 1) (((s.setSr sr).setTurns ts).setIndex (k + 1)) ∧
      NoReset ts := by
  rw [run_wait] at hend ⊢
  obtain ⟨sr, ts, hawait, hts⟩ := await_of_ended hr hs hend
  exact ⟨sr, ts, by rw [hawait]; rfl, hts⟩

theorem run_done_of_ended (hr : NoReset s.turns) (hs : s.seq ≠ .idle)
    (hend : (run (.done :: ms) 0 k s).seq = .idle) :
    ∃ sr ts, run (.done :: ms) 0 k s = ((s.setSr sr).setTurns ts).setSeq .idle := by
  rw [run_done] at hend ⊢
  obtain ⟨sr, ts, hawait, _⟩ := await_of_ended hr hs hend
  exact ⟨sr, ts, by rw [hawait]; rfl⟩

end

/-! ## What a command leaves (R172) -/

/-- Whatever the environment does, a run of `ms` from `s` that ends leaves `u`, but for `SR` and the turns left over. -/
def Leaves (ms : List Micro) (n k : Nat) (s u : State) : Prop :=
  ∀ sr ts, NoReset ts → (run ms n k ((s.setSr sr).setTurns ts)).seq = .idle →
    ∃ sr' ts', run ms n k ((s.setSr sr).setTurns ts) = (u.setSr sr').setTurns ts'

/-- The engine leaves one state, whatever the environment does: the waits decide when it goes on, and not what it does. -/
theorem BlindSequence.leaves {ms : List Micro} (h : BlindSequence ms) (n k : Nat) {s : State} (hs : s.seq ≠ .idle) :
    ∃ u, Leaves ms n k s u := by
  have index {v : State} (j : Nat) (hv : v.seq ≠ .idle) : (v.setIndex j).seq ≠ .idle :=
    (setIndex_seq_iff idle_ne_run v j).not.2 hv
  induction h generalizing n k s with
  | nil => exact ⟨s, fun sr ts _ _ => ⟨sr, ts, rfl⟩⟩
  | @act f ms effect _ ih =>
    cases n with
    | succ n => exact ih n (k + 1) hs
    | zero =>
      obtain ⟨u, hu⟩ := ih 0 (k + 1) (index (k + 1) fun hf => hs (effect.idle s hf))
      refine ⟨u, fun sr ts hr hend => ?_⟩
      obtain ⟨sr₁, ts₁, hrun, hr₁⟩ := run_act_of_ended (s := (s.setSr sr).setTurns ts) hr hs hend
      obtain ⟨sr₂, heffect⟩ : ∃ sr₂, f ((((s.setSr sr).setTurns ts).setSr sr₁).setTurns ts₁) =
        ((f s).setSr sr₂).setTurns ts₁ := effect.blind s sr₁ ts₁
      rw [heffect, setIndex_setSr_setTurns] at hrun
      rw [hrun] at hend ⊢
      exact hu sr₂ ts₁ hr₁ hend
  | @wait c ms _ ih =>
    cases n with
    | succ n => exact ih n (k + 1) hs
    | zero =>
      obtain ⟨u, hu⟩ := ih 0 (k + 1) (index (k + 1) hs)
      refine ⟨u, fun sr ts hr hend => ?_⟩
      obtain ⟨sr₁, ts₁, hrun, hr₁⟩ := run_wait_of_ended (s := (s.setSr sr).setTurns ts) hr hs hend
      rw [setIndex_setSr_setTurns, setIndex_setSr_setTurns] at hrun
      rw [hrun] at hend ⊢
      exact hu sr₁ ts₁ hr₁ hend
  | @ifThen c j ms test _ ih =>
    cases n with
    | succ n => exact ih n (k + 1) hs
    | zero =>
      obtain ⟨u, hu⟩ := ih (if c s then 0 else j) (k + 1) hs
      refine ⟨u, fun sr ts hr hend => ?_⟩
      rw [run_ifThen, test] at hend ⊢
      exact hu sr ts hr hend
  | done _ ih =>
    cases n with
    | succ n => exact ih n (k + 1) hs
    | zero =>
      refine ⟨s.setSeq .idle, fun sr ts hr hend => ?_⟩
      obtain ⟨sr₁, ts₁, hrun⟩ := run_done_of_ended (s := (s.setSr sr).setTurns ts) hr hs hend
      exact ⟨sr₁, ts₁, hrun⟩

/-- A command started in IDLE leaves one state, if it ends. -/
theorem exec_leaves (i : Instr) {s : State} (hs : s.seq = .idle) :
    ∃ u : State, ∀ (ts : List Turn) (t : State), NoReset ts → exec i (s.setTurns ts) = .next t → t.seq = .idle →
      ∃ sr' ts', t = (u.setSr sr').setTurns ts' := by
  obtain ⟨u, hu⟩ := (blindSequence_sequenceOf s.params i).leaves 0 0
    (s := (s.setCmd (encode i)).setSeq (.run (encode i) 0 {})) (by simp)
  refine ⟨u, fun ts t hr he hend => ?_⟩
  rw [exec_eq_sequenceOf] at he
  obtain rfl := Host.Outcome.next.inj he
  cases hc : operandFault s.params i with
  | some c =>
    rw [runCommand_fault (s := s.setTurns ts) hs hc] at hend
    exact absurd hend (by simp [raiseFault_eq])
  | none =>
    rw [runCommand_idle (s := s.setTurns ts) hs hc] at hend ⊢
    exact hu s.sr ts hr hend

/-- Settles O55: both ends are the one state that the command leaves. -/
theorem outcomeDoesNotDependOnTheEnvironment : Obligations.OutcomeDoesNotDependOnTheEnvironment := by
  intro i s t u ts us hs hts hus het heu ht hu
  obtain ⟨v, hv⟩ := exec_leaves i hs
  obtain ⟨srt, tst, rfl⟩ := hv ts t hts het ht
  obtain ⟨sru, tsu, rfl⟩ := hv us u hus heu hu
  rfl

/-! ## Commands without a wait (R177) -/

/-- The engine comes to `done` without a wait, whichever branches it takes. -/
inductive ReachesDone : List Micro → Prop where
  | done (ms : List Micro) : ReachesDone (.done :: ms)
  | act {f : State → State} {ms : List Micro} (rest : ReachesDone ms) : ReachesDone (.act f :: ms)
  | ifThen {c : State → Bool} {n : Nat} {ms : List Micro} (taken : ReachesDone ms) (passed : ReachesDone (ms.drop n)) :
      ReachesDone (.ifThen c n :: ms)

theorem BlindSequence.tail {m : Micro} {ms : List Micro} (h : BlindSequence (m :: ms)) : BlindSequence ms := by
  cases h with
  | act _ rest | wait rest | ifThen _ rest | done rest => exact rest

theorem BlindSequence.drop {ms : List Micro} (h : BlindSequence ms) (n : Nat) : BlindSequence (ms.drop n) := by
  induction n generalizing ms with
  | zero => exact h
  | succ n ih =>
    cases ms with
    | nil => exact h
    | cons m ms => exact ih h.tail

/-- With unbroken turns the engine carries such a sequence to its end. -/
theorem ReachesDone.run_idle {ms : List Micro} (h : ReachesDone ms) (hblind : BlindSequence ms) (k : Nat) {s : State}
    (hu : Unbroken s.turns) : (run ms 0 k s).seq = .idle := by
  induction h generalizing k s with
  | done ms =>
    obtain ⟨sr, ts, hrun, _⟩ := run_done_unbroken ms k s hu
    rw [hrun]
    rfl
  | @act f ms _ ih =>
    cases hblind with
    | act effect rest =>
      obtain ⟨sr, ts, hrun, hts, _⟩ := run_act_unbroken f ms k s hu
      rw [hrun]
      exact ih rest (k + 1) (by rw [State.setIndex_turns, effect.turns]; exact hts)
  | @ifThen c n ms _ _ taken passed =>
    cases hblind with
    | ifThen test rest =>
      cases hc : c s with
      | true =>
        rw [run_ifThen_taken hc]
        exact taken rest (k + 1) hu
      | false =>
        rw [run_ifThen_passed hc]
        exact passed (rest.drop n) (k + 1 + n) hu

theorem reachesDone_callGetmck {dest : State → State} {rest : List Micro} (h : ReachesDone rest) :
    ReachesDone (callGetmck (.act dest) ++ rest) :=
  .ifThen (.act (.act h)) (.act h)

theorem reachesDone_disableRounds (ids : List Nat) : ReachesDone (ids.flatMap disableRound ++ [.done]) := by
  induction ids with
  | nil => exact .done []
  | cons id ids ih => exact .act (.act (.act ih))

/-- R177: the commands outside the list have no wait. -/
theorem reachesDone_sequenceOf (p : Params) {i : Instr} (h : ¬ CanHang i) : ReachesDone (sequenceOf p i) := by
  cases i with
  | getmck => exact reachesDone_callGetmck (.done [])
  | getcpu => exact reachesDone_callGetmck (.act (.done []))
  | getslck | getmainck | getplla | getpck | inval => exact .act (.done [])
  | displla => exact .act (.act (.done []))
  | enp | disp | isenp => exact .act (.act (.act (.done [])))
  | getpclk a =>
    show ReachesDone (seqGetpclk p a)
    unfold seqGetpclk
    split
    · exact .act (.done [])
    · exact reachesDone_callGetmck (.act (.done []))
  | disallp => exact reachesDone_disableRounds _
  | _ => exact absurd trivial h

/-- Settles O57: the command's sequence comes to `done` without a wait. -/
theorem commandsWithoutAWaitEnd : Obligations.CommandsWithoutAWaitEnd := by
  intro i s h hs hc hu
  refine ⟨_, exec_eq_sequenceOf i s, ?_⟩
  rw [runCommand_idle hs hc]
  exact (reachesDone_sequenceOf s.params h).run_idle (blindSequence_sequenceOf s.params i) 0
    (s := (s.setCmd (encode i)).setSeq (.run (encode i) 0 {})) hu

end Sys2Proof.Machine
end

section
/-! PROOFS. What the reset values mean for the first query (spec/70_reset_and_hazards.md R191). -/

namespace Sys2Proof.Machine

/-! ## The master clock out of reset (R80, R86, R191) -/

/-- R80: with `OSCR` zero the slow clock is the internal RC oscillator. -/
theorem fSlow_of_oscr_zero {s : State} (h : s.oscr = 0) : fSlow s = s.params.fSlowRc := by
  have hsel : oscrSlcksel s.oscr ≠ 1 := by rw [h]; decide
  rw [fSlow, if_neg hsel]

/-- R84: prescaler encoding 0 does not shift. -/
theorem presApply_zero (f : Word) : presApply 0 f = f := BitVec.ushiftRight_zero f

/-- R83 to R86: `MCKR` zero selects the slow clock, divided by 1 and by 1. -/
theorem mckCompute_of_mckr_zero {s : State} (h : s.mckr = 0) : mckCompute s = fSlow s := by
  have hcss : mckrCss s.mckr = 0 := by rw [h]; decide
  have hpres : mckrPres s.mckr = 0 := by rw [h]; decide
  have hmdiv : mckrMdiv s.mckr = 0 := by rw [h]; decide
  calc mckCompute s
      = mdivApply 0 (presApply 0 (fSrc 0 s)) := by rw [mckCompute, hcss, hpres, hmdiv]; rfl
    _ = presApply 0 (fSrc 0 s) := rfl
    _ = fSrc 0 s := presApply_zero _
    _ = fSlow s := rfl

/-- R29, R31, R87: nothing is memoised after reset, so the master clock is derived from `MCKR` and `OSCR`. -/
theorem memoOrDerived_reset : memoOrDerived State.reset = Config.params.fSlowRc :=
  calc memoOrDerived State.reset
      = mckCompute State.reset := if_pos rfl
    _ = fSlow State.reset := mckCompute_of_mckr_zero rfl
    _ = Config.params.fSlowRc := fSlow_of_oscr_zero rfl

/-- Settles O32: the query completes with the memoised or derived word, which after reset is the internal RC's. -/
theorem firstQueryAfterResetReturnsTheSlowRc : Obligations.FirstQueryAfterResetReturnsTheSlowRc := by
  obtain ⟨sr, ts, hexec, -⟩ := getmckCompletes State.reset rfl ⟨List.not_mem_nil, List.not_mem_nil⟩
  exact ⟨_, hexec, memoOrDerived_reset, rfl⟩

end Sys2Proof.Machine
end
